-- ==== Sys2Proof/Word.lean ====
section
/-! DEFINITION. The word types of the Airman telemetry core and the type of a scalar register. -/

namespace Sys2Proof

/-- `u8` of rule R10: one byte of the frame buffer, an 8-bit control register, an ASCII character. -/
abbrev Byte := BitVec 8

/-- `u16` of rule R10. -/
abbrev U16 := BitVec 16

/-- `u32` of rule R10; `TMS_BITS` = 32 (rule R6). -/
abbrev U32 := BitVec 32

/-- A byte sequence or a string of rule R12: first character first, one ASCII byte a character. -/
abbrev Bytes := List Byte

/-- `NUM.T` (rule R7) for the recommended instance, IEEE 754 binary32 (rule R6, decision D12): the set of
VALUES of the format, with no bit layout, since the spec gives a scalar none (rule R54 (e)).
`fin neg code` is the finite value with sign `neg` and the magnitude of place `code` among the
magnitudes of the format in rising order (`code` = 0 is zero, 0x3F800000 is one): every `code` below
0x7F800000 is one magnitude, so no term is ill formed. There is one not-a-number.
DESIGN CHOICE (log entry 1). -/
inductive Scalar where
  | nan
  | inf (neg : Bool)
  | fin (neg : Bool) (code : Fin 0x7F800000)
deriving DecidableEq, Repr, Inhabited

/-- Three components of one vector of the estimator (rule R193). -/
structure Vec3 (T : Type) where
  x : T
  y : T
  z : T
deriving DecidableEq, Repr

/-- Four components of a quaternion, `q0` the scalar part (rule R34). -/
structure Quat (T : Type) where
  q0 : T
  q1 : T
  q2 : T
  q3 : T
deriving DecidableEq, Repr

/-- Roll, pitch and yaw in degrees (rule R23). -/
structure Angles (T : Type) where
  roll : T
  pitch : T
  yaw : T
deriving DecidableEq, Repr

end Sys2Proof
end

