-- ==== Sys2Proof/Syntax.lean ====
section
/-! DEFINITION. The syntax: register names, the commands (one constructor a row of the opcode table), and
the moves a host can make. -/

namespace Sys2Proof

/-- The 33 scalar registers, in the order of their numbers S0 to S32 (rules R21 and R74). -/
inductive SReg where
  | ax | ay | az | gx | gy | gz | mx | my | mz | dt | alt | temp
  | q0 | q1 | q2 | q3 | roll | pitch | yaw
  | an0 | an1 | an2 | mn0 | mn1 | mn2
  | r0 | r1 | r2 | r3 | r4 | r5 | r6 | r7
deriving DecidableEq, Repr

/-- All scalar registers by rising number (rule R74). -/
def SReg.all : List SReg :=
  [.ax, .ay, .az, .gx, .gy, .gz, .mx, .my, .mz, .dt, .alt, .temp,
   .q0, .q1, .q2, .q3, .roll, .pitch, .yaw, .an0, .an1, .an2, .mn0, .mn1, .mn2,
   .r0, .r1, .r2, .r3, .r4, .r5, .r6, .r7]

/-- The number of a scalar register (rule R74). -/
def SReg.number : SReg → Fin 33
  | .ax => 0 | .ay => 1 | .az => 2 | .gx => 3 | .gy => 4 | .gz => 5
  | .mx => 6 | .my => 7 | .mz => 8 | .dt => 9 | .alt => 10 | .temp => 11
  | .q0 => 12 | .q1 => 13 | .q2 => 14 | .q3 => 15
  | .roll => 16 | .pitch => 17 | .yaw => 18
  | .an0 => 19 | .an1 => 20 | .an2 => 21 | .mn0 => 22 | .mn1 => 23 | .mn2 => 24
  | .r0 => 25 | .r1 => 26 | .r2 => 27 | .r3 => 28
  | .r4 => 29 | .r5 => 30 | .r6 => 31 | .r7 => 32

/-- The scalar register of a number; numbers 33 and above are reserved (rules R57 and R74). -/
def SReg.ofNumber (n : Nat) : Option SReg := SReg.all[n]?

/-- The registers R0 to R7 in order: where DEC puts the field values (rule R142). -/
def SReg.results : List SReg := [.r0, .r1, .r2, .r3, .r4, .r5, .r6, .r7]

/-- The 11 control registers C0 to C10 (rules R27 and R75). -/
inductive CReg where
  | status | err | len | tms | expect | digest | xoracc | crcacc | rkind | rtms | rnf
deriving DecidableEq, Repr

/-- All control registers by rising number (rule R75). -/
def CReg.all : List CReg :=
  [.status, .err, .len, .tms, .expect, .digest, .xoracc, .crcacc, .rkind, .rtms, .rnf]

/-- The number of a control register (rule R75). -/
def CReg.number : CReg → Fin 11
  | .status => 0 | .err => 1 | .len => 2 | .tms => 3 | .expect => 4 | .digest => 5
  | .xoracc => 6 | .crcacc => 7 | .rkind => 8 | .rtms => 9 | .rnf => 10

/-- The width of a control register in bits (rule R27). -/
def CReg.width : CReg → Nat
  | .status => 8 | .err => 8 | .len => 16 | .tms => 32 | .expect => 16 | .digest => 16
  | .xoracc => 8 | .crcacc => 16 | .rkind => 8 | .rtms => 32 | .rnf => 8

/-- The control register of a number; numbers 11 and above are reserved (rules R57 and R75). -/
def CReg.ofNumber (n : Nat) : Option CReg := CReg.all[n]?

/-- A register of either file. -/
inductive Reg where
  | scalar (r : SReg)
  | control (r : CReg)
deriving DecidableEq, Repr

/-- The place of a register among all 44: the scalar registers by number, then the control registers by
number. -/
def Reg.place : Reg → Fin 44
  | .scalar r => ⟨r.number.val, by omega⟩
  | .control r => ⟨33 + r.number.val, by omega⟩

/-- The registers that reset writes (rule R38). -/
def Reg.setByReset : List Reg :=
  [.scalar .q0, .scalar .q1, .scalar .q2, .scalar .q3,
   .control .status, .control .err, .control .len, .control .xoracc, .control .crcacc]

/-- The checksum algorithms (rule R73). -/
inductive Alg where
  | xor8
  | crc16
deriving DecidableEq, Repr

/-- The commands: one constructor for each of the ten rows of `opcode_table.json` (rule R71; ENC has one
row a kind). -/
inductive Instr where
  | csinit
  | csput (byte : Byte)
  | xor8
  | crc16
  | verify (alg : Alg)
  | encL1
  | encL2
  | dec
  | update
  | euler
deriving DecidableEq, Repr

/-- The host's moves (rule R226), as the host writes them; `HostMove.allowed` of WellFormed.lean is the
rule's column "allowed when". -/
inductive HostMove where
  | wrs (n : Nat) (v : Scalar)
  | rds (n : Nat)
  | wrc (n : Nat) (v : Nat)
  | rdc (n : Nat)
  | wrb (i : Nat) (b : Byte)
  | rdb (i : Nat)
  | cmd (w : U16)
deriving DecidableEq, Repr

/-- What can happen to the block between two commands: a host move (rule R226), or the reset event of the
environment (rule R241). -/
inductive Event where
  | move (m : HostMove)
  | reset
deriving DecidableEq, Repr

/-- What a reading move returns to the host (rule R226): one scalar, one control register (zero-extended
to the widest, 32 bits), or one byte (rule R56). -/
inductive Reply where
  | scalar (v : Scalar)
  | control (v : U32)
  | byte (b : Byte)
deriving DecidableEq, Repr

end Sys2Proof
end

