-- ==== Sys2Proof/Config.lean ====
section
/-! DEFINITION. What an implementation fixes (rule R6): the record `NUM`, the frame format table, the size of
the frame buffer, and the values the spec leaves open, each an opaque constant. -/

namespace Sys2Proof

/-- The number format `NUM` of rule R7, for a set of scalar values `T`, member for member. The codec and the
estimator are written over an arbitrary `NUM`; the machine takes `Sys2Proof.Machine.num`. -/
structure Num (T : Type) where
  /-- `v` denotes a rational number. -/
  finite : T → Bool
  /-- The exact value of a finite `v`. -/
  val : T → Rat
  /-- True for negative values, and for a negative zero. -/
  neg : T → Bool
  zero : T
  one : T
  half : T
  two : T
  c180 : T
  pi : T
  add : T → T → T
  sub : T → T → T
  mul : T → T → T
  div : T → T → T
  negate : T → T
  sqrt : T → T
  asin : T → T
  /-- `atan2 y x`. -/
  atan2 : T → T → T
  isZero : T → Bool
  lt : T → T → Bool
  /-- The value for the numeral of sign `neg` and magnitude `r`, or none. -/
  ofDec : Bool → Rat → Option T

/-- An entry of the frame format table (rule R9): kind number, tag, algorithm, and the fields, each a source
register and a decimal precision. -/
structure FrameFormat where
  kind : Byte
  tag : Bytes
  alg : Alg
  fields : List (SReg × Nat)
deriving DecidableEq, Repr

/-- The number of hex digits of a digest (rule R103). -/
def Alg.width : Alg → Nat
  | .xor8 => 2
  | .crc16 => 4

/-- The entry of kind 1, tag `L1` (rules R9, R76 and R79). -/
def Config.formatL1 : FrameFormat where
  kind := 1
  tag := [0x4C, 0x31]
  alg := .xor8
  fields := [(.ax, 3), (.ay, 3), (.az, 3), (.gx, 3), (.gy, 3), (.gz, 3), (.alt, 2), (.temp, 2)]

/-- The entry of kind 2, tag `L2` (rules R9, R76 and R80); `<heading>` is YAW (90_conflicts.md C3). -/
def Config.formatL2 : FrameFormat where
  kind := 2
  tag := [0x4C, 0x32]
  alg := .crc16
  fields := [(.roll, 2), (.pitch, 2), (.yaw, 2), (.alt, 2), (.temp, 2)]

/-- `FMT_TABLE` (rule R9). -/
def Config.fmtTable : List FrameFormat := [Config.formatL1, Config.formatL2]

/-- `TSDIG` of rule R52: the digits of 2^32 - 1. -/
def Config.timestampDigits : Nat := 10

/-- `IDIG` of rule R52 for binary32. -/
def Config.integerDigits : Nat := 39

/-- The longest frame of one kind: the summand of `MAXFRAME` (rule R52). -/
def Config.maxFrameOf (e : FrameFormat) : Nat :=
  1 + e.tag.length + 1 + Config.timestampDigits
    + (e.fields.map fun f => 1 + 1 + Config.integerDigits + 1 + f.2).sum
    + 1 + e.alg.width

/-- `MAXFRAME` (rule R52). -/
def Config.maxFrame : Nat :=
  (Config.fmtTable.map Config.maxFrameOf).foldl max 0

/-- By how much `BUF_CAP` exceeds `MAXFRAME` = 375: OPEN (rule R6, decision D7), held to what rules R29 and
R52 ask, `MAXFRAME <= BUF_CAP <= 65535`. DESIGN CHOICE (log entry 4). -/
opaque Config.bufExtra : Fin 65161

/-- `BUF_CAP` (rules R6 and R52). -/
def Config.bufCap : Nat := Config.maxFrame + Config.bufExtra.val

/-- `i < BUF_CAP`: the index `i` exists (rule R53). The first test decides the indices that exist under every
`BUF_CAP` the rule allows, so that they can be evaluated. -/
def Config.indexExists (i : Nat) : Bool := decide (i < Config.maxFrame) || decide (i < Config.bufCap)

/-- `n <= BUF_CAP`: a sequence of `n` bytes has room in the buffer (rules R29 and R52). -/
def Config.lengthFits (n : Nat) : Bool := decide (n ≤ Config.maxFrame) || decide (n ≤ Config.bufCap)

/-- `NUM.pi`, left open by rule R7 for binary32 too (93_implementation_defined.md U5). Log entry 2. -/
opaque Config.freePi : Scalar

/-- `NUM.asin`, left open by rule R7 for binary32 too (93_implementation_defined.md U5). Log entry 2. -/
opaque Config.freeAsin : Scalar → Scalar

/-- `NUM.atan2`, left open by rule R7 for binary32 too (93_implementation_defined.md U5), its value at (0, 0)
included (rule R188). Log entry 2. -/
opaque Config.freeAtan2 : Scalar → Scalar → Scalar

/-- The rounding of `NUM.ofDec`, left open by rule R7 for binary32 too (93_implementation_defined.md U5): whether
the numeral of the given sign and magnitude, where it lies strictly between two neighbouring magnitudes, becomes
the upper one. Log entry 3. -/
opaque Config.freeDecUp : Bool → Rat → Bool

/-- What a host read of a scalar register that nothing has written since reset returns: any value (rule R39,
93_implementation_defined.md U1), one for each reset and each register, so that reading is idempotent (rule
R56). Log entry 6. -/
opaque Config.freeScalar : (resetCount : Nat) → SReg → Scalar

/-- The same for a control register, of which a read takes the bits of the register's width. Log entry 6. -/
opaque Config.freeControl : (resetCount : Nat) → CReg → U32

/-- What a host read of a buffer byte that nothing has written since reset returns: any value (rule R39,
93_implementation_defined.md U1), one for each reset and each index, so that reading is idempotent (rule R56).
Log entry 6. -/
opaque Config.freeByte : (resetCount index : Nat) → Byte

end Sys2Proof
end

