-- ==== Sys2Proof/WellFormed.lean ====
section
/-! DEFINITION. Which host moves exist (rule R226, column "allowed when"), and well-formedness of commands. -/

namespace Sys2Proof

/-- `WRC n, v` exists: `n` is 2 (LEN) with `v <= BUF_CAP`, 3 (TMS) with `v < 2^32`, or 4 (EXPECT) with
`v < 2^16` (rule R226). -/
def HostMove.wrcAllowed (n v : Nat) : Bool :=
  match CReg.ofNumber n with
  | some .len => decide (v < 65536) && Config.lengthFits v
  | some .tms => decide (v < 4294967296)
  | some .expect => decide (v < 65536)
  | _ => false

/-- The column "allowed when" of rule R226. Every 16-bit word may be given as a command. -/
def HostMove.allowed : HostMove → Bool
  | .wrs n _ => decide (n < 12)
  | .rds n => decide (n < 33)
  | .wrc n v => HostMove.wrcAllowed n v
  | .rdc n => decide (n < 11)
  | .wrb i _ => Config.indexExists i
  | .rdb i => Config.indexExists i
  | .cmd _ => true

/-- An event is well formed: a move that exists, or the reset event. -/
def Event.wf : Event → Bool
  | .move m => m.allowed
  | .reset => true

/-- Every term of `Instr` is a command: the argument of CSPUT may be any byte, VERIFY's and ENC's arguments
are constructors (rules R71 and R72), so there is no ill-formed command to refuse. -/
def Instr.wf : Instr → Bool
  | .csinit => true
  | .csput _ => true
  | .xor8 => true
  | .crc16 => true
  | .verify _ => true
  | .encL1 => true
  | .encL2 => true
  | .dec => true
  | .update => true
  | .euler => true

end Sys2Proof
end

