-- ==== Sys2Proof/Decode.lean ====
section
/-! DEFINITION. Decoding and encoding of the command word `CW16` (rules R70 to R73, R76, R86), and the opcode
table as rows of match and mask. -/

namespace Sys2Proof

/-- Why a command word is illegal (rule R86). -/
inductive IllegalWord where
  /-- `op` is none of the nine operation codes. -/
  | unknownOp (op : Byte)
  /-- `arg` is not 0 for a command that takes none. -/
  | argNotZero (arg : Byte)
  /-- `VERIFY` with `arg` above 1. -/
  | unknownAlg (arg : Byte)
  /-- `ENC` with `arg` not 1 or 2. -/
  | unknownKind (arg : Byte)
deriving DecidableEq, Repr

/-- The field `op`, bits 15:8 (rule R70). -/
def cwOp (w : U16) : Byte := w.extractLsb' 8 8

/-- The field `arg`, bits 7:0 (rule R70). -/
def cwArg (w : U16) : Byte := w.extractLsb' 0 8

/-- A command that takes no argument: `arg` must be 0 (rule R70). -/
def decodeNoArg (arg : Byte) (i : Instr) : Except IllegalWord Instr :=
  if arg = 0 then .ok i else .error (.argNotZero arg)

/-- VERIFY's `alg`: 0 is XOR8, 1 is CRC16 (rules R71 to R73). -/
def decodeVerify (arg : Byte) : Except IllegalWord Instr :=
  if arg = 0 then .ok (.verify .xor8)
  else if arg = 1 then .ok (.verify .crc16)
  else .error (.unknownAlg arg)

/-- ENC's `kind`: 1 is the Level-1 frame, 2 the Level-2 frame (rules R71, R72 and R76). -/
def decodeEnc (arg : Byte) : Except IllegalWord Instr :=
  if arg = 1 then .ok .encL1
  else if arg = 2 then .ok .encL2
  else .error (.unknownKind arg)

/-- The operation codes (rule R71). -/
def decodeFields (op arg : Byte) : Except IllegalWord Instr :=
  if op = 0x01 then decodeNoArg arg .csinit
  else if op = 0x02 then .ok (.csput arg)
  else if op = 0x03 then decodeNoArg arg .xor8
  else if op = 0x04 then decodeNoArg arg .crc16
  else if op = 0x05 then decodeVerify arg
  else if op = 0x10 then decodeEnc arg
  else if op = 0x11 then decodeNoArg arg .dec
  else if op = 0x20 then decodeNoArg arg .update
  else if op = 0x21 then decodeNoArg arg .euler
  else .error (.unknownOp op)

/-- Decoding of a command word, total; a word that is no command is rejected by name (rules R71 and R86). -/
def decode (w : U16) : Except IllegalWord Instr := decodeFields (cwOp w) (cwArg w)

/-- The algorithm code (rule R73). -/
def Alg.code : Alg → Byte
  | .xor8 => 0
  | .crc16 => 1

/-- The word of an operation code and an argument (rule R70). -/
def cw (op arg : Byte) : U16 := op ++ arg

/-- The word of a command (rule R71). -/
def encode : Instr → U16
  | .csinit => cw 0x01 0x00
  | .csput byte => cw 0x02 byte
  | .xor8 => cw 0x03 0x00
  | .crc16 => cw 0x04 0x00
  | .verify alg => cw 0x05 alg.code
  | .encL1 => cw 0x10 0x01
  | .encL2 => cw 0x10 0x02
  | .dec => cw 0x11 0x00
  | .update => cw 0x20 0x00
  | .euler => cw 0x21 0x00

/-- A row of the opcode table (rule R71). -/
structure OpcodeRow where
  mnemonic : String
  matchBits : U16
  mask : U16
deriving DecidableEq, Repr

/-- A word is the command of a row when `(w & mask) = match` (rule R71). -/
def OpcodeRow.accepts (r : OpcodeRow) (w : U16) : Bool := (w &&& r.mask) == r.matchBits

/-- The ten rows of the opcode table (rule R71). -/
def opcodeTable : List OpcodeRow :=
  [⟨"CSINIT", 0x0100, 0xFFFF⟩, ⟨"CSPUT", 0x0200, 0xFF00⟩, ⟨"XOR8", 0x0300, 0xFFFF⟩,
   ⟨"CRC16", 0x0400, 0xFFFF⟩, ⟨"VERIFY", 0x0500, 0xFFFE⟩, ⟨"ENC", 0x1001, 0xFFFF⟩,
   ⟨"ENC", 0x1002, 0xFFFF⟩, ⟨"DEC", 0x1100, 0xFFFF⟩, ⟨"UPDATE", 0x2000, 0xFFFF⟩,
   ⟨"EULER", 0x2100, 0xFFFF⟩]

/-- The row of the opcode table a command belongs to. -/
def Instr.row : Instr → OpcodeRow
  | .csinit => ⟨"CSINIT", 0x0100, 0xFFFF⟩
  | .csput _ => ⟨"CSPUT", 0x0200, 0xFF00⟩
  | .xor8 => ⟨"XOR8", 0x0300, 0xFFFF⟩
  | .crc16 => ⟨"CRC16", 0x0400, 0xFFFF⟩
  | .verify _ => ⟨"VERIFY", 0x0500, 0xFFFE⟩
  | .encL1 => ⟨"ENC", 0x1001, 0xFFFF⟩
  | .encL2 => ⟨"ENC", 0x1002, 0xFFFF⟩
  | .dec => ⟨"DEC", 0x1100, 0xFFFF⟩
  | .update => ⟨"UPDATE", 0x2000, 0xFFFF⟩
  | .euler => ⟨"EULER", 0x2100, 0xFFFF⟩

/-- The command word among bits numbered as the opcode table numbers them: every command is one 16-bit word
given whole (rule R70), so the bits above `nbits` are zero and a number of more than 16 bits is no word. -/
def tableWord (nbits w : Nat) : Option U16 :=
  let v := w % 2 ^ nbits
  if v < 65536 then some (BitVec.ofNat 16 v) else none

/-- The command the decoder reads from a word of the opcode table. -/
def decodeTableWord (nbits w : Nat) : Option Instr :=
  match tableWord nbits w with
  | none => none
  | some cw =>
    match decode cw with
    | .ok i => some i
    | .error _ => none

end Sys2Proof
end

