-- ==== Sys2Proof/Machine/Binary32.lean ====
section
/-! DEFINITION. IEEE 754 binary32 arithmetic on `Scalar`: correctly rounded, to nearest with ties to even, with no
fused multiply-add (rule R7). A finite magnitude is handled as a natural number of units of 2^-149, the
smallest positive magnitude, so that every operation is one exact integer computation and one rounding. -/

namespace Sys2Proof.Machine

/-- 2^149: how many units make one. -/
def b32UnitsPerOne : Nat := 2 ^ 149

/-- The magnitude of place `code`, in units of 2^-149. -/
def b32Units (code : Nat) : Nat :=
  let e := code / 2 ^ 23
  let f := code % 2 ^ 23
  if e = 0 then f else (2 ^ 23 + f) * 2 ^ (e - 1)

/-- The integer nearest to `x / y`, ties to the even one (the rounding of rules R7 and R136). -/
def roundHalfEven (x y : Nat) : Nat :=
  let q := x / y
  let r := x % y
  if y < 2 * r ∨ (2 * r = y ∧ q % 2 = 1) then q + 1 else q

/-- The place of the magnitude nearest to `x / y` units, ties to the even one, in a format without a largest
exponent: `e` is the exponent that leaves 24 bits of significand. -/
def b32RoundCode (x y : Nat) : Nat :=
  let e := Nat.log2 (x / y) - 23
  e * 2 ^ 23 + roundHalfEven x (y * 2 ^ e)

/-- The value of a sign and a place; a place past the largest finite magnitude is an infinity. -/
def b32OfCode (neg : Bool) (code : Nat) : Scalar :=
  if h : code < 0x7F800000 then .fin neg ⟨code, h⟩ else .inf neg

/-- The value nearest to `x / y` units with the given sign, overflow giving an infinity. -/
def b32OfUnits (neg : Bool) (x y : Nat) : Scalar := b32OfCode neg (b32RoundCode x y)

/-- A finite value as a signed number of units. -/
def b32Signed (neg : Bool) (code : Nat) : Int :=
  if neg then -(b32Units code : Int) else (b32Units code : Int)

/-- `NUM.zero`. -/
def b32Zero : Scalar := .fin false 0
/-- `NUM.one`. -/
def b32One : Scalar := .fin false 0x3F800000
/-- `NUM.half`. -/
def b32Half : Scalar := .fin false 0x3F000000
/-- `NUM.two`. -/
def b32Two : Scalar := .fin false 0x40000000
/-- 90, the angle of rule R191. -/
def b32Ninety : Scalar := .fin false 0x42B40000
/-- `NUM.c180`. -/
def b32C180 : Scalar := .fin false 0x43340000

/-- `NUM.finite`. -/
def b32Finite : Scalar → Bool
  | .fin _ _ => true
  | _ => false

/-- `NUM.val`: the exact value of a finite scalar (0 where there is none; no rule asks for it there). -/
def b32Val : Scalar → Rat
  | .fin neg c => mkRat (b32Signed neg c.val) b32UnitsPerOne
  | _ => 0

/-- `NUM.neg`; the one not-a-number has no sign (log entry 1). -/
def b32Neg : Scalar → Bool
  | .nan => false
  | .inf neg => neg
  | .fin neg _ => neg

/-- `NUM.negate`: exact. -/
def b32Negate : Scalar → Scalar
  | .nan => .nan
  | .inf neg => .inf (!neg)
  | .fin neg c => .fin (!neg) c

/-- `NUM.isZero`: exactly zero, either sign. -/
def b32IsZero : Scalar → Bool
  | .fin _ c => decide (c.val = 0)
  | _ => false

/-- The sum of two finite values: a sum of exactly zero is positive unless both terms are negative zeros. -/
def b32AddFin (s : Bool) (a : Nat) (t : Bool) (b : Nat) : Scalar :=
  let z := b32Signed s a + b32Signed t b
  if z = 0 then b32OfCode (s && t) 0 else b32OfUnits (decide (z < 0)) z.natAbs 1

/-- `NUM.add`. -/
def b32Add (a b : Scalar) : Scalar :=
  match a, b with
  | .nan, _ => .nan
  | _, .nan => .nan
  | .inf s, .inf t => if s = t then .inf s else .nan
  | .inf s, .fin _ _ => .inf s
  | .fin _ _, .inf t => .inf t
  | .fin s x, .fin t y => b32AddFin s x.val t y.val

/-- `NUM.sub`. -/
def b32Sub (a b : Scalar) : Scalar := b32Add a (b32Negate b)

/-- `NUM.mul`. -/
def b32Mul (a b : Scalar) : Scalar :=
  match a, b with
  | .nan, _ => .nan
  | _, .nan => .nan
  | .inf s, .inf t => .inf (s != t)
  | .inf s, .fin t y => if y.val = 0 then .nan else .inf (s != t)
  | .fin s x, .inf t => if x.val = 0 then .nan else .inf (s != t)
  | .fin s x, .fin t y => b32OfUnits (s != t) (b32Units x.val * b32Units y.val) b32UnitsPerOne

/-- `NUM.div`; division of a nonzero value by zero is an infinity, of zero by zero a not-a-number
(rule R181). -/
def b32Div (a b : Scalar) : Scalar :=
  match a, b with
  | .nan, _ => .nan
  | _, .nan => .nan
  | .inf _, .inf _ => .nan
  | .inf s, .fin t _ => .inf (s != t)
  | .fin s _, .inf t => .fin (s != t) 0
  | .fin s x, .fin t y =>
    if y.val = 0 then (if x.val = 0 then .nan else .inf (s != t))
    else b32OfUnits (s != t) (b32Units x.val * b32UnitsPerOne) (b32Units y.val)

/-- The integer square root, one bit of the root a step: `bits` bits still to find below the root `r` found. -/
def isqrtBits : (bits : Nat) → (x r : Nat) → Nat
  | 0, _, r => r
  | k + 1, x, r =>
    if (r + 2 ^ k) * (r + 2 ^ k) ≤ x then isqrtBits k x (r + 2 ^ k) else isqrtBits k x r

/-- The place of the magnitude nearest to the square root of `u` units: the root is that of `w = u * 2^149`
units squared, `e` its exponent, and the root of `w / 4^e` is rounded to an integer of 24 bits. -/
def b32SqrtCode (u : Nat) : Nat :=
  let w := u * b32UnitsPerOne
  let e := Nat.log2 w / 2 - 23
  let r := isqrtBits 25 (w / 4 ^ e) 0
  let twice := (2 * r + 1) * (2 * r + 1) * 4 ^ e
  e * 2 ^ 23 + (if twice < 4 * w ∨ (twice = 4 * w ∧ r % 2 = 1) then r + 1 else r)

/-- `NUM.sqrt`; the root of a negative zero is a negative zero, of any other negative value a
not-a-number. -/
def b32Sqrt : Scalar → Scalar
  | .nan => .nan
  | .inf neg => if neg then .nan else .inf false
  | .fin neg c =>
    if c.val = 0 then .fin neg c
    else if neg then .nan
    else b32OfCode false (b32SqrtCode (b32Units c.val))

/-- `NUM.lt`: false if either is not a number. -/
def b32Lt (a b : Scalar) : Bool :=
  match a, b with
  | .nan, _ => false
  | _, .nan => false
  | .inf s, .inf t => s && !t
  | .inf s, .fin _ _ => s
  | .fin _ _, .inf t => !t
  | .fin s x, .fin t y => decide (b32Signed s x.val < b32Signed t y.val)

/-- `NUM.ofDec` for one choice `up` of its rounding: a magnitude of the format is itself; any other numeral
becomes the neighbouring magnitude below it or, where `up`, the one above it; the sign is kept, on a zero result
too; none past the largest finite magnitude (rules R7 and R152). Whether there is a value depends on `up` only
between the largest finite magnitude and 2^128. Log entry 3. -/
def b32DecRound (up neg : Bool) (r : Rat) : Option Scalar :=
  let x := r.num.natAbs * b32UnitsPerOne
  let e := Nat.log2 (x / r.den) - 23
  let below := e * 2 ^ 23 + x / (r.den * 2 ^ e)
  let goUp := decide (x % (r.den * 2 ^ e) ≠ 0) && up
  if h : below + 1 < 0x7F800000 then
    some (.fin neg (if goUp then ⟨below + 1, h⟩ else ⟨below, Nat.lt_of_succ_lt h⟩))
  else if h : below < 0x7F800000 ∧ goUp = false then some (.fin neg ⟨below, h.1⟩)
  else none

/-- `NUM.ofDec` as rule R152 states it for binary32: the nearest value, ties to even, the sign kept on a zero
result; none when the numeral is too large for any finite value. It is `b32DecRound` under one of the two
choices (`b32OfDec_eq_b32DecRound`). Log entry 3. -/
def b32OfDec (neg : Bool) (r : Rat) : Option Scalar :=
  let code := b32RoundCode (r.num.natAbs * b32UnitsPerOne) r.den
  if h : code < 0x7F800000 then some (.fin neg ⟨code, h⟩) else none

end Sys2Proof.Machine
end

