-- ==== Sys2Proof/Machine/Number.lean ====
section
/-! DEFINITION. The machine's number format: binary32 (rule R7) with `pi`, `asin`, `atan2` and the
rounding of `ofDec` open, held to the one value the spec pins for them (P-ASIN90, rules R8 and R191); the constants D2R and R2D; and the laws of rule R8
that are properties of a `NUM`. -/

namespace Sys2Proof.Machine

/-- P-ASIN90 (rules R8 and R191) for a value of pi and the values of `asin` at one and at minus one: both
convert to exactly 90 and -90 degrees. -/
def asin90 (pi asinOne asinMinusOne : Scalar) : Bool :=
  decide (b32Mul asinOne (b32Div b32C180 pi) = b32Ninety)
    && decide (b32Mul asinMinusOne (b32Div b32C180 pi) = b32Negate b32Ninety)

/-- The open values as they stand meet P-ASIN90. Nothing in Lean decides it. -/
def openLawful : Bool :=
  asin90 Config.freePi (Config.freeAsin b32One) (Config.freeAsin (b32Negate b32One))

/-- `NUM.pi`: the open value, where the open values meet P-ASIN90; else the binary32 value nearest to pi, so
that the machine meets P-ASIN90 whatever they are. Log entry 2. -/
def numPi : Scalar := if openLawful then Config.freePi else .fin false 0x40490FDB

/-- `NUM.asin`: the open function; where the open values do not meet P-ASIN90 it is replaced at one and at
minus one alone. Log entry 2. -/
def numAsin (x : Scalar) : Scalar :=
  if openLawful then Config.freeAsin x
  else if x = b32One then .fin false 0x3FC90FDB
  else if x = b32Negate b32One then .fin true 0x3FC90FDB
  else Config.freeAsin x

/-- `NUM.ofDec`: the open rounding. Log entry 3. -/
def numOfDec (neg : Bool) (r : Rat) : Option Scalar := b32DecRound (Config.freeDecUp neg r) neg r

/-- The recommended instance of `NUM` (rule R6) for a given `pi`, `asin`, `atan2` and `ofDec`, the members that
rule R7 takes as configuration. -/
def binary32 (pi : Scalar) (asin : Scalar → Scalar) (atan2 : Scalar → Scalar → Scalar)
    (ofDec : Bool → Rat → Option Scalar) : Num Scalar where
  finite := b32Finite
  val := b32Val
  neg := b32Neg
  zero := b32Zero
  one := b32One
  half := b32Half
  two := b32Two
  c180 := b32C180
  pi := pi
  add := b32Add
  sub := b32Sub
  mul := b32Mul
  div := b32Div
  negate := b32Negate
  sqrt := b32Sqrt
  asin := asin
  atan2 := atan2
  isZero := b32IsZero
  lt := b32Lt
  ofDec := ofDec

/-- The machine's `NUM`. -/
def num : Num Scalar := binary32 numPi numAsin Config.freeAtan2 numOfDec

/-- `D2R = NUM.pi / NUM.c180` (rule R187). -/
def degToRad {T : Type} (N : Num T) : T := N.div N.pi N.c180

/-- `R2D = NUM.c180 / NUM.pi` (rule R187). -/
def radToDeg {T : Type} (N : Num T) : T := N.div N.c180 N.pi

/-- `deg2rad(x) = x * D2R` (rules R172 and R187). -/
def deg2rad {T : Type} (N : Num T) (x : T) : T := N.mul x (degToRad N)

/-- `rad2deg(x) = x * R2D` (rule R187). -/
def rad2deg {T : Type} (N : Num T) (x : T) : T := N.mul x (radToDeg N)

end Sys2Proof.Machine
end

