-- ==== Sys2Proof/Machine/State.lean ====
section
/-! DEFINITION. The state of one instance of the block (rule R20), its reset value (rules R38 and R240), and the
names of the ways a step can stop. -/

namespace Sys2Proof.Machine

/-- A fault: the machine stops. The spec gives the block none ("No error in this core is fatal", rule R215);
this one stands for an access the spec says cannot be. -/
inductive Fault where
  /-- Raised by XOR8, CRC16, VERIFY and DEC when LEN exceeds BUF_CAP, so that `BUF[0..LEN)` names an index that
  does not exist (rule R53). No host move and no command gives LEN such a value (rules R29 and R226). Safe. -/
  | noSuchIndex (len : Nat)
deriving DecidableEq, Repr

/-- A refusal: the model gives the step no meaning. -/
inductive Refusal where
  /-- An instruction whose meaning is not written; no arm of `exec` answers with it. Safe. -/
  | notModelled (mnemonic : String)
  /-- Raised by XOR8, CRC16, VERIFY and DEC when a byte of `BUF[0..LEN)` has not been written since reset
  (rule R39, 93_implementation_defined.md U1: refuse). Safe. -/
  | unwrittenByte (i : Nat)
  /-- Raised by VERIFY, ENC and UPDATE when a register among their operands has not been written since reset
  (rules R39 and R242, 93_implementation_defined.md U1: refuse). Safe. -/
  | unwrittenRegister (r : Reg)
  /-- Raised by ENC when a source register holds a value that is not finite (rule R139,
  93_implementation_defined.md U3: refuse). Safe. -/
  | nonFiniteField (r : SReg)
  /-- Raised by ENC when the frame is longer than BUF_CAP (rule R52, 93_implementation_defined.md U2: refuse);
  with BUF_CAP at least MAXFRAME it never is. Safe. -/
  | frameTooLong (n : Nat)
  /-- Raised by a step whose next event is a host move that rule R226 says does not exist. Safe. -/
  | noSuchMove (m : HostMove)
deriving DecidableEq, Repr

/-- The errors DEC reports (rule R210). -/
inductive FrameError where
  | missingMarkers
  | checksumInvalid
  | fieldCountMismatch
  | fieldParseError
deriving DecidableEq, Repr

/-- The frame buffer: the bytes written since reset, by rising index. An unlisted index has not been written
and holds no value (rule R39; log entry 5). -/
abbrev Memory := List Host.Cell

/-- The canonical form of the buffer: indices strictly rising, and each of them exists (rules R50 and R53).
As an unlisted index has no value, no entry equals what an unlisted index reads as. -/
abbrev Memory.wf (m : Memory) : Prop :=
  (m.map Prod.fst).Pairwise (· < ·) ∧ ∀ i ∈ m.map Prod.fst, Config.indexExists i = true

/-- The complete state of one instance of the block (rule R20): the scalar registers, the control registers
and the frame buffer; and, the model's own, which registers have been written since reset, the host's events to come,
what the last of them returned, and the count of resets (log entries 5, 6 and 7). -/
structure State where
  /-- S0 to S32 (rule R21). -/
  scalars : Vector Scalar 33
  /-- C0 (rule R26): bit 0 MATCH, bit 1 DEGEN, bit 2 ILL, bits 7:3 reserved. -/
  status : Byte
  /-- C1 (rule R28). -/
  err : Byte
  /-- C2 (rule R29). -/
  len : U16
  /-- C3 (rule R30). -/
  tms : U32
  /-- C4 (rule R31). -/
  expect : U16
  /-- C5 (rule R31). -/
  digest : U16
  /-- C6 (rule R32). -/
  xoracc : Byte
  /-- C7 (rule R32). -/
  crcacc : U16
  /-- C8 (rule R33). -/
  rkind : Byte
  /-- C9 (rule R33). -/
  rtms : U32
  /-- C10 (rule R33). -/
  rnf : Byte
  /-- BUF (rules R35 and R50). -/
  buf : Memory
  /-- The model's own: which registers have been written since reset, by their places (rule R39, log entry 5). -/
  written : Vector Bool 44
  /-- The model's own: what the host will do next, first event first (an input, rule R37). -/
  pending : List Event
  /-- The model's own: what the last event returned to the host, if it was a read. -/
  reply : Option Reply
  /-- The model's own: how many resets there have been since the first; it names the free values that unwritten
  registers and bytes read as until the next one. -/
  resetCount : Nat
deriving DecidableEq, Repr

/-- The state after reset (rules R38 and R240). Q0 to Q3, XORACC, CRCACC, STATUS, ERR and LEN have the spec's
values; every other register is unspecified there, is zero here (DESIGN CHOICE, log entry 8) and has not been
written; no byte of the buffer is written; the host has nothing to do yet. -/
def State.reset : State where
  scalars := (Vector.replicate 33 b32Zero).set 12 b32One
  status := 0x00
  err := 0x00
  len := 0
  tms := 0
  expect := 0
  digest := 0
  xoracc := 0x00
  crcacc := 0xFFFF
  rkind := 0
  rtms := 0
  rnf := 0
  buf := []
  written := Reg.setByReset.foldl (fun v r => v.set r.place.val true r.place.isLt) (Vector.replicate 44 false)
  pending := []
  reply := none
  resetCount := 0

end Sys2Proof.Machine
end

