-- ==== Sys2Proof/Machine/Flags.lean ====
section
/-! DEFINITION. The fields of STATUS (rule R26): one operation sets or clears a bit of it and leaves the others. -/

namespace Sys2Proof.Machine

/-- STATUS with bit `k` set to `b`, the other bits as they were (rules R26 and R10). -/
def statusWithBit (status : Byte) (k : Nat) (b : Bool) : Byte :=
  if b then status ||| BitVec.ofNat 8 (2 ^ k) else status &&& ~~~(BitVec.ofNat 8 (2 ^ k))

/-- The bit of MATCH (rule R26). -/
def matchBit : Nat := 0
/-- The bit of DEGEN (rule R26). -/
def degenBit : Nat := 1
/-- The bit of ILL (rule R26). -/
def illBit : Nat := 2

/-- `STATUS.MATCH <- b` (rule R108). -/
def State.setMatch (s : State) (b : Bool) : State := { s with status := statusWithBit s.status matchBit b }

/-- `STATUS.DEGEN <- b` (rule R171). -/
def State.setDegen (s : State) (b : Bool) : State := { s with status := statusWithBit s.status degenBit b }

/-- `STATUS.ILL <- 1` (rule R86); only reset clears it. -/
def State.setIll (s : State) : State := { s with status := statusWithBit s.status illBit true }

/-- STATUS.MATCH. -/
def State.matchFlag (s : State) : Bool := s.status.getLsbD matchBit
/-- STATUS.DEGEN. -/
def State.degenFlag (s : State) : Bool := s.status.getLsbD degenBit
/-- STATUS.ILL. -/
def State.illFlag (s : State) : Bool := s.status.getLsbD illBit

end Sys2Proof.Machine
end

