-- ==== Sys2Proof/Machine/Ops.lean ====
section
/-! DEFINITION. The named operations over registers and the frame buffer, and the entry of an error. -/

namespace Sys2Proof.Machine

/-- Go on with the value of a computation that may stop. -/
def andThen {α β : Type} (o : Host.Outcome α Fault Refusal) (f : α → Host.Outcome β Fault Refusal) :
    Host.Outcome β Fault Refusal :=
  match o with
  | .next a => f a
  | .fault e => .fault e
  | .refused r => .refused r

/-- Read a scalar register (rules R11 and R24). -/
def State.scalar (s : State) (r : SReg) : Scalar := s.scalars.get r.number

/-- The register has been written since reset (rule R39). -/
def State.isWritten (s : State) (r : Reg) : Bool := s.written.get r.place

/-- Record that a register has been written (rule R39). -/
def State.markWritten (s : State) (r : Reg) : State :=
  { s with written := s.written.set r.place.val true r.place.isLt }

/-- Record that several registers have been written. -/
def State.markAll (s : State) (rs : List Reg) : State := rs.foldl State.markWritten s

/-- Go on where all these registers have been written since reset; refused at the first that has not (rules
R39 and R242). Log entry 5. -/
def State.requireWritten (s : State) (rs : List Reg) : Host.Outcome Unit Fault Refusal :=
  match rs.find? fun r => !s.isWritten r with
  | none => .next ()
  | some r => .refused (.unwrittenRegister r)

/-- Write a scalar register, whole (rules R11 and R24). -/
def State.setScalar (s : State) (r : SReg) (v : Scalar) : State :=
  { s with scalars := s.scalars.set r.number.val v r.number.isLt }.markWritten (.scalar r)

/-- Write several scalar registers, first pair first. -/
def State.setScalars (s : State) (ws : List (SReg × Scalar)) : State :=
  ws.foldl (fun t w => t.setScalar w.1 w.2) s

/-- Read a control register, zero-extended to 32 bits (rules R27, R56 and R75). -/
def State.control (s : State) : CReg → U32
  | .status => s.status.setWidth 32
  | .err => s.err.setWidth 32
  | .len => s.len.setWidth 32
  | .tms => s.tms
  | .expect => s.expect.setWidth 32
  | .digest => s.digest.setWidth 32
  | .xoracc => s.xoracc.setWidth 32
  | .crcacc => s.crcacc.setWidth 32
  | .rkind => s.rkind.setWidth 32
  | .rtms => s.rtms
  | .rnf => s.rnf.setWidth 32

/-- Write a control register the host may write: LEN, TMS or EXPECT (rule R226); the others are read-only to
it (rule R27). -/
def State.setControl (s : State) (r : CReg) (v : Nat) : State :=
  match r with
  | .len => { s with len := BitVec.ofNat 16 v }
  | .tms => { s with tms := BitVec.ofNat 32 v }.markWritten (.control .tms)
  | .expect => { s with expect := BitVec.ofNat 16 v }.markWritten (.control .expect)
  | _ => s

/-- What a host read of a scalar register shows: its value, or any value where nothing has written it since
reset (rule R39, log entry 6). -/
def State.shownScalar (s : State) (r : SReg) : Scalar :=
  if s.isWritten (.scalar r) then s.scalar r else Config.freeScalar s.resetCount r

/-- What a host read of a control register shows: its value, or any value of its width where nothing has
written it since reset (rule R39, log entry 6). -/
def State.shownControl (s : State) (r : CReg) : U32 :=
  if s.isWritten (.control r) then s.control r
  else ((Config.freeControl s.resetCount r).setWidth r.width).setWidth 32

/-- `MemRead(i, 1)` (rule R11): none where nothing has been written since reset (rule R39). -/
def memRead : Memory → Nat → Option Byte
  | [], _ => none
  | (a, b) :: m, i => if a = i then some b else memRead m i

/-- `MemWrite(i, 1, b)` (rule R11), keeping the indices rising. -/
def memWrite : Memory → Nat → Byte → Memory
  | [], i, b => [(i, b)]
  | (a, c) :: m, i, b =>
    if i < a then (i, b) :: (a, c) :: m
    else if i = a then (i, b) :: m
    else (a, c) :: memWrite m i b

/-- `MemWrite(i + k, 1, bs[k])` for each `k` in turn (rule R89 (c)). -/
def memWriteSeq : Memory → Nat → Bytes → Memory
  | m, _, [] => m
  | m, i, b :: bs => memWriteSeq (memWrite m i b) (i + 1) bs

/-- The `n` bytes from index `i` on, in ascending index order (rule R89 (b)); refused at the first that has
not been written (rule R39). -/
def memReadSeq (m : Memory) : (i n : Nat) → Host.Outcome Bytes Fault Refusal
  | _, 0 => .next []
  | i, n + 1 =>
    match memRead m i with
    | none => .refused (.unwrittenByte i)
    | some b => andThen (memReadSeq m (i + 1) n) fun bs => .next (b :: bs)

/-- Write a byte sequence to the buffer from index 0 and its length to LEN (rules R50 and R132); refused where
the buffer has no room for it (rule R52). -/
def State.putFrame (s : State) (frame : Bytes) : Host.Outcome State Fault Refusal :=
  if Config.lengthFits frame.length then
    .next { s with buf := memWriteSeq s.buf 0 frame, len := BitVec.ofNat 16 frame.length }
  else .refused (.frameTooLong frame.length)

/-- The codes of the errors (rule R210). -/
def FrameError.code : FrameError → Byte
  | .missingMarkers => 1
  | .checksumInvalid => 2
  | .fieldCountMismatch => 3
  | .fieldParseError => 4

/-- `fail E`, the whole of error entry: `ERR <- code(E)` and nothing else (rule R212). There is no return
from an error (rule R213). -/
def State.failWith (s : State) (e : FrameError) : State := { s with err := e.code }

end Sys2Proof.Machine
end

