-- ==== Sys2Proof/Machine/Operands.lean ====
section
/-! DEFINITION. The operands of the commands: `BUF[0..LEN)`, the sample and the quaternion, the source registers of
a frame (rule R72: an operand in the command word is used as it stands, so the decoder gives it whole). -/

namespace Sys2Proof.Machine

/-- `BUF[0..LEN)` (rule R51). It faults where LEN exceeds BUF_CAP (rule R53). -/
def State.message (s : State) : Host.Outcome Bytes Fault Refusal :=
  if Config.lengthFits s.len.toNat then memReadSeq s.buf 0 s.len.toNat
  else .fault (.noSuchIndex s.len.toNat)

/-- AX, AY, AZ (rule R22). -/
def State.accel (s : State) : Vec3 Scalar := ⟨s.scalar .ax, s.scalar .ay, s.scalar .az⟩

/-- GX, GY, GZ (rule R22). -/
def State.gyro (s : State) : Vec3 Scalar := ⟨s.scalar .gx, s.scalar .gy, s.scalar .gz⟩

/-- MX, MY, MZ (rule R22). -/
def State.mag (s : State) : Vec3 Scalar := ⟨s.scalar .mx, s.scalar .my, s.scalar .mz⟩

/-- Q0 to Q3 (rule R34). -/
def State.quat (s : State) : Quat Scalar := ⟨s.scalar .q0, s.scalar .q1, s.scalar .q2, s.scalar .q3⟩

/-- AN0 to AN2 (rule R23). -/
def State.normAccel (s : State) : Vec3 Scalar := ⟨s.scalar .an0, s.scalar .an1, s.scalar .an2⟩

/-- MN0 to MN2 (rule R23). -/
def State.normMag (s : State) : Vec3 Scalar := ⟨s.scalar .mn0, s.scalar .mn1, s.scalar .mn2⟩

/-- ROLL, PITCH, YAW (rule R23). -/
def State.angles (s : State) : Angles Scalar := ⟨s.scalar .roll, s.scalar .pitch, s.scalar .yaw⟩

/-- `Q0 <- .., Q3 <- ..` (rule R171, step 7). -/
def State.setQuat (s : State) (q : Quat Scalar) : State :=
  s.setScalars [(.q0, q.q0), (.q1, q.q1), (.q2, q.q2), (.q3, q.q3)]

/-- AN0 to AN2 written, or kept where the step that writes them was skipped (rule R174). -/
def State.setNormAccel (s : State) : Option (Vec3 Scalar) → State
  | none => s
  | some v => s.setScalars [(.an0, v.x), (.an1, v.y), (.an2, v.z)]

/-- MN0 to MN2 written, or kept where the step that writes them was skipped (rule R175). -/
def State.setNormMag (s : State) : Option (Vec3 Scalar) → State
  | none => s
  | some v => s.setScalars [(.mn0, v.x), (.mn1, v.y), (.mn2, v.z)]

/-- `ROLL <- .., PITCH <- .., YAW <- ..` (rule R182). -/
def State.setAngles (s : State) (a : Angles Scalar) : State :=
  s.setScalars [(.roll, a.roll), (.pitch, a.pitch), (.yaw, a.yaw)]

/-- The values of the source registers of a frame kind, in order, each with its precision (rules R9 and
R132). -/
def State.fieldValues (s : State) (e : FrameFormat) : List (Scalar × Nat) :=
  e.fields.map fun f => (s.scalar f.1, f.2)

/-- The registers that must have been written since reset before an ENC of a kind: TMS and the sources (rule
R242). -/
def encOperands (e : FrameFormat) : List Reg := .control .tms :: e.fields.map fun f => .scalar f.1

/-- The registers that must have been written since reset before an UPDATE (rule R242). -/
def updateOperands : List Reg :=
  [.scalar .ax, .scalar .ay, .scalar .az, .scalar .gx, .scalar .gy, .scalar .gz,
   .scalar .mx, .scalar .my, .scalar .mz, .scalar .dt]

/-- The registers that must have been written since reset before a command (rule R242, column "must be written
first"; the registers of its next column have been written by reset). -/
def operandsOf : Instr → List Reg
  | .csinit => []
  | .csput _ => []
  | .xor8 => []
  | .crc16 => []
  | .verify _ => [.control .expect]
  | .encL1 => encOperands Config.formatL1
  | .encL2 => encOperands Config.formatL2
  | .dec => []
  | .update => updateOperands
  | .euler => []

/-- The first source register of a frame kind that holds a value that is not finite (rule R139). -/
def State.nonFiniteSource (s : State) (e : FrameFormat) : Option SReg :=
  (e.fields.map Prod.fst).find? fun r => !(num.finite (s.scalar r))

end Sys2Proof.Machine
end

