-- ==== Sys2Proof/Machine/Checksum.lean ====
section
/-! DEFINITION. The Checksum Engine: the digest functions (rules R100 to R103) and CSINIT, CSPUT, XOR8, CRC16,
VERIFY (rules R104 to R108). -/

namespace Sys2Proof.Machine

/-- The seed of the running exclusive-or (rule R6). -/
def xorSeed : Byte := 0x00

/-- The initial CRC register, `CRC_INIT` (rule R6). -/
def crcInit : U16 := 0xFFFF

/-- The CRC polynomial, `POLY` (rule R6). -/
def crcPoly : U16 := 0x1021

/-- `xor_step(x, b)` (rule R100). -/
def xorStep (x b : Byte) : Byte := x ^^^ b

/-- `xor8(bytes)` (rule R100). -/
def xor8 (bytes : Bytes) : Byte := bytes.foldl xorStep xorSeed

/-- One of the 8 iterations of the CRC (rule R101): the top bit is tested before the shift. -/
def crcShift (c : U16) : U16 := if c.getLsbD 15 then (c <<< 1) ^^^ crcPoly else c <<< 1

/-- `k` iterations one after another (rule R101). -/
def crcShifts : Nat → U16 → U16
  | 0, c => c
  | k + 1, c => crcShifts k (crcShift c)

/-- `crc_step(c, b)` (rule R101): the byte into bits 15:8, then 8 iterations. -/
def crcStep (c : U16) (b : Byte) : U16 := crcShifts 8 (c ^^^ (b ++ (0x00 : Byte)))

/-- `crc16_ccitt(bytes)` (rule R102). -/
def crc16 (bytes : Bytes) : U16 := bytes.foldl crcStep crcInit

/-- `digest(alg, bytes)` (rule R103). -/
def digest (alg : Alg) (bytes : Bytes) : U16 :=
  match alg with
  | .xor8 => (xor8 bytes).setWidth 16
  | .crc16 => crc16 bytes

/-- CSINIT (rule R104). -/
def execCsinit (s : State) : Host.Outcome State Fault Refusal :=
  .next { s with xoracc := xorSeed, crcacc := crcInit }

/-- CSPUT byte (rule R105). -/
def execCsput (byte : Byte) (s : State) : Host.Outcome State Fault Refusal :=
  .next { s with xoracc := xorStep s.xoracc byte, crcacc := crcStep s.crcacc byte }

/-- `DIGEST <- d` (rules R31, R106 and R107). -/
def State.setDigest (s : State) (d : U16) : State := { s with digest := d }.markWritten (.control .digest)

/-- XOR8 (rule R106). -/
def execXor8 (s : State) : Host.Outcome State Fault Refusal :=
  andThen s.message fun bytes => .next (s.setDigest (digest .xor8 bytes))

/-- CRC16 (rule R107). -/
def execCrc16 (s : State) : Host.Outcome State Fault Refusal :=
  andThen s.message fun bytes => .next (s.setDigest (digest .crc16 bytes))

/-- VERIFY alg (rule R108); refused where EXPECT has not been written (rule R39). -/
def execVerify (alg : Alg) (s : State) : Host.Outcome State Fault Refusal :=
  andThen s.message fun bytes =>
    andThen (s.requireWritten (operandsOf (.verify alg))) fun _ =>
      .next (s.setMatch (decide (digest alg bytes = s.expect)))

end Sys2Proof.Machine
end

