-- ==== Sys2Proof/Machine/Text.lean ====
section
/-! DEFINITION. The text functions of the Frame Codec: `dec_u`, `fmt_fixed`, `hex_w` (rules R133, R136, R138),
splitting (rule R147) and the numeric parsers (rules R150 to R152), over an arbitrary `NUM`. -/

namespace Sys2Proof.Machine

/-- `'$'` (rule R12). -/
def chDollar : Byte := 0x24
/-- `'*'` (rule R12). -/
def chStar : Byte := 0x2A
/-- `','` (rule R12). -/
def chComma : Byte := 0x2C
/-- `'-'` (rule R12). -/
def chMinus : Byte := 0x2D
/-- `'.'` (rule R12). -/
def chPoint : Byte := 0x2E
/-- `'0'` (rule R12). -/
def chZero : Byte := 0x30

/-- The character of a decimal digit 0 to 9 (rule R12). -/
def digitChar (d : Nat) : Byte := BitVec.ofNat 8 (0x30 + d)

/-- The character of a hex digit 0 to 15, upper case (rules R12 and R138). -/
def hexChar (d : Nat) : Byte := if d < 10 then BitVec.ofNat 8 (0x30 + d) else BitVec.ofNat 8 (0x41 + (d - 10))

/-- The digits of `n` before the text `acc`, taken from the least significant digit; `fuel` bounds their
number. -/
def decDigits : (fuel n : Nat) → (acc : Bytes) → Bytes
  | 0, _, acc => acc
  | k + 1, n, acc =>
    if n < 10 then digitChar n :: acc else decDigits k (n / 10) (digitChar (n % 10) :: acc)

/-- `dec_u(n)` (rule R133): a number of `b` bits has at most `b` decimal digits. -/
def decU (n : Nat) : Bytes := decDigits (Nat.log2 n + 1) n []

/-- `hex_w(v, w)` (rule R138). -/
def hexW (v : Nat) : (w : Nat) → Bytes
  | 0 => []
  | w + 1 => hexChar (v / 16 ^ w % 16) :: hexW v w

/-- The magnitude of a finite value in units of the last printed digit, `|NUM.val(v)| * 10^p` rounded half to
even on the exact value (rule R136). -/
def fixedUnits {T : Type} (N : Num T) (v : T) (p : Nat) : Nat :=
  roundHalfEven ((N.val v).num.natAbs * 10 ^ p) (N.val v).den

/-- `dec_u(n)` with `'0'` put in front until it has `p + 1` characters (rule R136). -/
def padDigits (n p : Nat) : Bytes :=
  List.replicate (p + 1 - (decU n).length) chZero ++ decU n

/-- The integer `n` with its last `p` digits behind a point; no point when `p` is 0 (rule R136). -/
def pointText (n p : Nat) : Bytes :=
  let d := padDigits n p
  if p = 0 then d else d.take (d.length - p) ++ chPoint :: d.drop (d.length - p)

/-- `fmt_fixed(v, p)` (rule R136), for a finite `v`. -/
def fmtFixed {T : Type} (N : Num T) (v : T) (p : Nat) : Bytes :=
  (if N.neg v then [chMinus] else []) ++ pointText (fixedUnits N v p) p

/-- `split(bytes, sep)` (rule R147): the pieces between separators, in order; `c` separators give `c + 1`
pieces. -/
def splitOn (sep : Byte) : Bytes → List Bytes
  | [] => [[]]
  | b :: bs =>
    match splitOn sep bs with
    | [] => [[b]]
    | p :: ps => if b = sep then [] :: p :: ps else (b :: p) :: ps

/-- A DIGIT of rule R78. -/
def isDigit (b : Byte) : Bool := decide (0x30 ≤ b.toNat) && decide (b.toNat ≤ 0x39)

/-- `1*DIGIT` (rule R78). -/
def isDigits (p : Bytes) : Bool := !p.isEmpty && p.all isDigit

/-- The value of a sequence of digits, most significant first, as an unbounded integer (rule R151). -/
def digitsValue (p : Bytes) : Nat := p.foldl (fun n b => 10 * n + (b.toNat - 0x30)) 0

/-- The magnitude denoted by `1*DIGIT [ "." 1*DIGIT ]`, or none (rules R150 and R152). -/
def parseMagnitude (p : Bytes) : Option Rat :=
  let int := p.takeWhile isDigit
  let rest := p.dropWhile isDigit
  if int.isEmpty then none
  else
    match rest with
    | [] => some (mkRat (digitsValue int) 1)
    | b :: frac =>
      if b = chPoint && isDigits frac then some (mkRat (digitsValue (int ++ frac)) (10 ^ frac.length))
      else none

/-- The sign and magnitude denoted by `number`, or none (rule R150). -/
def parseNumeral : Bytes → Option (Bool × Rat)
  | [] => none
  | b :: p => if b = chMinus then (parseMagnitude p).map (true, ·) else (parseMagnitude (b :: p)).map (false, ·)

/-- `parse_num(p)` (rules R150 and R152). -/
def parseNum {T : Type} (N : Num T) (p : Bytes) : Option T :=
  match parseNumeral p with
  | none => none
  | some (neg, r) => N.ofDec neg r

/-- `parse_ts(p)` (rule R151): `1*DIGIT` with a value below 2^32. -/
def parseTs (p : Bytes) : Option U32 :=
  if isDigits p && decide (digitsValue p < 4294967296) then some (BitVec.ofNat 32 (digitsValue p)) else none

/-- Numeric parsing of the fields in order, none at the first failure (rule R152). -/
def parseNums {T : Type} (N : Num T) : List Bytes → Option (List T)
  | [] => some []
  | p :: ps =>
    match parseNum N p with
    | none => none
    | some v => (parseNums N ps).map (v :: ·)

end Sys2Proof.Machine
end

