-- ==== Sys2Proof/Machine/FrameCodec.lean ====
section
/-! DEFINITION. The Frame Codec: building a frame (rule R131), parsing one (rule R142), and the commands ENC and
DEC (rules R132 and R142). -/

namespace Sys2Proof.Machine

/-- The fields of a payload, each with a comma before it (rules R78 and R131). -/
def encodeFields {T : Type} (N : Num T) : List (T × Nat) → Bytes
  | [] => []
  | (v, p) :: fs => chComma :: fmtFixed N v p ++ encodeFields N fs

/-- The payload (rules R78 and R131). -/
def encodePayload {T : Type} (N : Num T) (e : FrameFormat) (t : U32) (fields : List (T × Nat)) : Bytes :=
  e.tag ++ chComma :: decU t.toNat ++ encodeFields N fields

/-- The digest field of a payload: its digest in upper-case hex of the algorithm's width (rules R77, R81 and
R138). -/
def digestField (alg : Alg) (payload : Bytes) : Bytes := hexW (digest alg payload).toNat alg.width

/-- A payload between its markers, with its digest field (rule R77). -/
def wrapFrame (alg : Alg) (payload : Bytes) : Bytes :=
  chDollar :: payload ++ chStar :: digestField alg payload

/-- `encode(e, t, x)` (rule R131). -/
def encodeFrame {T : Type} (N : Num T) (e : FrameFormat) (t : U32) (fields : List (T × Nat)) : Bytes :=
  wrapFrame e.alg (encodePayload N e t fields)

/-- What a successful parse gives (rule R153). -/
structure Parsed (T : Type) where
  kind : Byte
  timestamp : U32
  values : List T
deriving DecidableEq, Repr

/-- The payload and the digest field of a sequence (rule R144): the first `$` and the first `*`, each found
independently; none if one is absent or the `*` lies before the `$`. -/
def splitMarkers (s : Bytes) : Option (Bytes × Bytes) :=
  match s.findIdx? (· == chDollar), s.findIdx? (· == chStar) with
  | some i, some j => if j < i then none else some ((s.drop (i + 1)).take (j - (i + 1)), s.drop (j + 1))
  | _, _ => none

/-- The algorithm a digest field of a given length tells (rule R146). -/
def algOfLength (n : Nat) : Option Alg :=
  if n = 2 then some .xor8 else if n = 4 then some .crc16 else none

/-- Step 2 of DEC (rule R146): the algorithm, if the digest field is the text of the payload's digest. -/
def checkDigest (payload dfield : Bytes) : Option Alg :=
  match algOfLength dfield.length with
  | none => none
  | some a => if dfield = digestField a payload then some a else none

/-- The entry of a frame format table whose tag equals `tag` byte for byte (rule R147). -/
def findFormat (table : List FrameFormat) (tag : Bytes) : Option FrameFormat :=
  table.find? fun e => e.tag == tag

/-- Steps 3d to 3f of DEC (rules R150 to R152): the pieces after the tag, the timestamp first. -/
def parseFields {T : Type} (N : Num T) (e : FrameFormat) : List Bytes → Except FrameError (Parsed T)
  | [] => .error .fieldCountMismatch
  | ts :: fs =>
    match parseTs ts with
    | none => .error .fieldParseError
    | some t =>
      match parseNums N fs with
      | none => .error .fieldParseError
      | some vs => .ok ⟨e.kind, t, vs⟩

/-- Step 3 of DEC (rules R147 to R152), after the checksum has been found right under algorithm `a`: the tag,
then the agreement of tag and algorithm, then the count, then the parsing. -/
def parsePayload {T : Type} (N : Num T) (table : List FrameFormat) (a : Alg) (payload : Bytes) :
    Except FrameError (Parsed T) :=
  match splitOn chComma payload with
  | [] => .error .fieldCountMismatch
  | tag :: rest =>
    match findFormat table tag with
    | none => .error .fieldCountMismatch
    | some e =>
      if e.alg ≠ a then .error .checksumInvalid
      else if rest.length ≠ 1 + e.fields.length then .error .fieldCountMismatch
      else parseFields N e rest

/-- The parse of a whole sequence, in the order of rules R140 and R214: markers, checksum, count, parsing. -/
def parseFrame {T : Type} (N : Num T) (table : List FrameFormat) (s : Bytes) : Except FrameError (Parsed T) :=
  match splitMarkers s with
  | none => .error .missingMarkers
  | some (payload, dfield) =>
    match checkDigest payload dfield with
    | none => .error .checksumInvalid
    | some a => parsePayload N table a payload

/-- The writes of a successful DEC (rules R142 and R153): ERR, RKIND, RTMS, RNF, and R0 on in frame order. -/
def State.putParsed (s : State) (p : Parsed Scalar) : State :=
  { s.setScalars (SReg.results.zip p.values) with
    err := 0, rkind := p.kind, rtms := p.timestamp, rnf := BitVec.ofNat 8 p.values.length }.markAll
    [.control .rkind, .control .rtms, .control .rnf]

/-- The writes of a DEC: those of a success, or ERR alone (rules R153 and R212). -/
def State.putParse (s : State) : Except FrameError (Parsed Scalar) → State
  | .ok p => s.putParsed p
  | .error e => s.failWith e

/-- The encoding shared by the two kinds of ENC (rule R132); refused where TMS or a source has not been written
(rule R39), and where a source is not finite (rule R139). -/
def State.encodeKind (s : State) (e : FrameFormat) : Host.Outcome State Fault Refusal :=
  andThen (s.requireWritten (encOperands e)) fun _ =>
    match s.nonFiniteSource e with
    | some r => .refused (.nonFiniteField r)
    | none => s.putFrame (encodeFrame num e s.tms (s.fieldValues e))

/-- ENC 1 (rules R132 and R79). -/
def execEncL1 (s : State) : Host.Outcome State Fault Refusal := s.encodeKind Config.formatL1

/-- ENC 2 (rules R132 and R80). -/
def execEncL2 (s : State) : Host.Outcome State Fault Refusal := s.encodeKind Config.formatL2

/-- DEC (rule R142). -/
def execDec (s : State) : Host.Outcome State Fault Refusal :=
  andThen s.message fun bytes => .next (s.putParse (parseFrame num Config.fmtTable bytes))

end Sys2Proof.Machine
end

