-- ==== Sys2Proof/Machine/Attitude.lean ====
section
/-! DEFINITION. The Attitude Estimator, written over an arbitrary `NUM`: the steps of UPDATE (rules R171 to R180), the
Euler angles (rules R182 to R187), and the commands UPDATE and EULER. -/

namespace Sys2Proof.Machine

/-- Step 1 (rule R172): degrees per second to radians per second. -/
def gyroRates {T : Type} (N : Num T) (g : Vec3 T) : Vec3 T :=
  ⟨deg2rad N g.x, deg2rad N g.y, deg2rad N g.z⟩

/-- Step 2 (rules R171 and R173): the derivative of the quaternion, grouped as rule R171 writes it. -/
def quatDerivative {T : Type} (N : Num T) (q : Quat T) (w : Vec3 T) : Quat T where
  q0 := N.mul N.half (N.sub (N.sub (N.mul (N.negate q.q1) w.x) (N.mul q.q2 w.y)) (N.mul q.q3 w.z))
  q1 := N.mul N.half (N.sub (N.add (N.mul q.q0 w.x) (N.mul q.q2 w.z)) (N.mul q.q3 w.y))
  q2 := N.mul N.half (N.add (N.sub (N.mul q.q0 w.y) (N.mul q.q1 w.z)) (N.mul q.q3 w.x))
  q3 := N.mul N.half (N.sub (N.add (N.mul q.q0 w.z) (N.mul q.q1 w.y)) (N.mul q.q2 w.x))

/-- The Euclidean magnitude of a vector (rule R174). -/
def vecMagnitude {T : Type} (N : Num T) (v : Vec3 T) : T :=
  N.sqrt (N.add (N.add (N.mul v.x v.x) (N.mul v.y v.y)) (N.mul v.z v.z))

/-- Each component divided by the magnitude; none where the magnitude is exactly zero (rules R174 and
R175). -/
def normalizeVec {T : Type} (N : Num T) (v : Vec3 T) : Option (Vec3 T) :=
  let n := vecMagnitude N v
  if N.isZero n then none else some ⟨N.div v.x n, N.div v.y n, N.div v.z n⟩

/-- Step 4 (rule R175): done only if step 3 did not skip. -/
def normalizeMag {T : Type} (N : Num T) (an : Option (Vec3 T)) (m : Vec3 T) : Option (Vec3 T) :=
  match an with
  | none => none
  | some _ => normalizeVec N m

/-- Step 5 (rule R178): the correction of the derivative, which is none in `VARIANT = GYRO_ONLY`. -/
def correctDerivative {T : Type} (d : Quat T) (_an _mn : Option (Vec3 T)) : Quat T := d

/-- Step 6 (rule R179). -/
def integrate {T : Type} (N : Num T) (q d : Quat T) (dt : T) : Quat T where
  q0 := N.add q.q0 (N.mul d.q0 dt)
  q1 := N.add q.q1 (N.mul d.q1 dt)
  q2 := N.add q.q2 (N.mul d.q2 dt)
  q3 := N.add q.q3 (N.mul d.q3 dt)

/-- The Euclidean norm of step 7 (rule R171). -/
def quatNorm {T : Type} (N : Num T) (p : Quat T) : T :=
  N.sqrt (N.add (N.add (N.add (N.mul p.q0 p.q0) (N.mul p.q1 p.q1)) (N.mul p.q2 p.q2)) (N.mul p.q3 p.q3))

/-- Step 7 (rule R180): division of each component by the norm. -/
def normalizeQuat {T : Type} (N : Num T) (p : Quat T) : Quat T :=
  let n := quatNorm N p
  ⟨N.div p.q0 n, N.div p.q1 n, N.div p.q2 n, N.div p.q3 n⟩

/-- What one UPDATE computes: the normalized vectors where their steps were done, the degenerate condition,
and the new quaternion (rule R171). -/
structure UpdateResult (T : Type) where
  quat : Quat T
  accel : Option (Vec3 T)
  mag : Option (Vec3 T)
  degen : Bool
deriving DecidableEq, Repr

/-- The seven steps of UPDATE (rule R171). -/
def updateResult {T : Type} (N : Num T) (accel gyro mag : Vec3 T) (dt : T) (q : Quat T) : UpdateResult T :=
  let an := normalizeVec N accel
  let mn := normalizeMag N an mag
  let d := correctDerivative (quatDerivative N q (gyroRates N gyro)) an mn
  { quat := normalizeQuat N (integrate N q d dt)
    accel := an
    mag := mn
    degen := mn.isNone }

/-- `clamp(s)` (rule R184). -/
def clampUnit {T : Type} (N : Num T) (s : T) : T :=
  if N.lt N.one s then N.one
  else if N.lt s (N.negate N.one) then N.negate N.one
  else s

/-- The argument of `asin` before the clamp (rule R182). -/
def pitchSine {T : Type} (N : Num T) (q : Quat T) : T :=
  N.mul N.two (N.sub (N.mul q.q0 q.q2) (N.mul q.q3 q.q1))

/-- The formulas of EULER (rules R182 and R183). -/
def eulerAngles {T : Type} (N : Num T) (q : Quat T) : Angles T :=
  let ry := N.mul N.two (N.add (N.mul q.q0 q.q1) (N.mul q.q2 q.q3))
  let rx := N.sub N.one (N.mul N.two (N.add (N.mul q.q1 q.q1) (N.mul q.q2 q.q2)))
  let yy := N.mul N.two (N.add (N.mul q.q0 q.q3) (N.mul q.q1 q.q2))
  let yx := N.sub N.one (N.mul N.two (N.add (N.mul q.q2 q.q2) (N.mul q.q3 q.q3)))
  { roll := rad2deg N (N.atan2 ry rx)
    pitch := rad2deg N (N.asin (clampUnit N (pitchSine N q)))
    yaw := rad2deg N (N.atan2 yy yx) }

/-- The writes of UPDATE (rule R171): Q0 to Q3 and DEGEN always, AN and MN where their steps were done. -/
def State.putUpdate (s : State) (u : UpdateResult Scalar) : State :=
  (((s.setNormAccel u.accel).setNormMag u.mag).setQuat u.quat).setDegen u.degen

/-- UPDATE (rule R171); refused where a register of the sample or DT has not been written (rule R39). -/
def execUpdate (s : State) : Host.Outcome State Fault Refusal :=
  andThen (s.requireWritten (operandsOf .update)) fun _ =>
    .next (s.putUpdate (updateResult num s.accel s.gyro s.mag (s.scalar .dt) s.quat))

/-- EULER (rule R182). -/
def execEuler (s : State) : Host.Outcome State Fault Refusal :=
  .next (s.setAngles (eulerAngles num s.quat))

end Sys2Proof.Machine
end

