-- ==== Sys2Proof/Machine/Dispatch.lean ====
section
/-! DEFINITION. The meaning of every command: one arm a constructor of `Instr`. -/

namespace Sys2Proof.Machine

/-- The effect of a command (rule R5: one atomic transition). -/
def exec (i : Instr) (s : State) : Host.Outcome State Fault Refusal :=
  match i with
  | .csinit => Sys2Proof.Machine.execCsinit s
  | .csput byte => Sys2Proof.Machine.execCsput byte s
  | .xor8 => Sys2Proof.Machine.execXor8 s
  | .crc16 => Sys2Proof.Machine.execCrc16 s
  | .verify alg => Sys2Proof.Machine.execVerify alg s
  | .encL1 => Sys2Proof.Machine.execEncL1 s
  | .encL2 => Sys2Proof.Machine.execEncL2 s
  | .dec => Sys2Proof.Machine.execDec s
  | .update => Sys2Proof.Machine.execUpdate s
  | .euler => Sys2Proof.Machine.execEuler s

end Sys2Proof.Machine
end

