-- ==== Sys2Proof/Machine/HostInterface.lean ====
section
/-! DEFINITION. The host interface (rule R226): the moves, the reset event (rules R240 and R241), taking the next
event, and the host-script pseudo-moves (rule R87). -/

namespace Sys2Proof.Machine

/-- `CMD w` (rules R226 and R86): the command of the word, or STATUS.ILL set where the word is illegal. -/
def giveCommand (w : U16) (s : State) : Host.Outcome State Fault Refusal :=
  match decode w with
  | .ok i => exec i s
  | .error _ => .next s.setIll

/-- `WRS n, v` (rule R226). -/
def writeScalar (n : Nat) (v : Scalar) (s : State) : State :=
  match SReg.ofNumber n with
  | some r => s.setScalar r v
  | none => s

/-- `RDS n` (rule R226); a register that nothing has written since reset reads as any value (rule R39). -/
def readScalar (n : Nat) (s : State) : State :=
  { s with reply := (SReg.ofNumber n).map fun r => .scalar (s.shownScalar r) }

/-- `WRC n, v` (rule R226). -/
def writeControl (n v : Nat) (s : State) : State :=
  match CReg.ofNumber n with
  | some r => s.setControl r v
  | none => s

/-- `RDC n` (rule R226); a register that nothing has written since reset reads as any value (rule R39). -/
def readControl (n : Nat) (s : State) : State :=
  { s with reply := (CReg.ofNumber n).map fun r => .control (s.shownControl r) }

/-- `WRB i, b` (rule R226). -/
def writeByte (i : Nat) (b : Byte) (s : State) : State := { s with buf := memWrite s.buf i b }

/-- `RDB i` (rule R226); a byte that nothing has written since reset reads as any value, the same
one until it is written or reset (rules R39 and R56, log entry 6). -/
def readByte (i : Nat) (s : State) : State :=
  { s with reply := some (.byte ((memRead s.buf i).getD (Config.freeByte s.resetCount i))) }

/-- The effect of a host move that exists (rule R226). -/
def hostMove (m : HostMove) (s : State) : Host.Outcome State Fault Refusal :=
  match m with
  | .wrs n v => .next (writeScalar n v s)
  | .rds n => .next (readScalar n s)
  | .wrc n v => .next (writeControl n v s)
  | .rdc n => .next (readControl n s)
  | .wrb i b => .next (writeByte i b s)
  | .rdb i => .next (readByte i s)
  | .cmd w => giveCommand w s

/-- The reset event (rules R240 and R241): the state after reset; what the host will do next is not the block's
and stays, and what has not been written takes new free values. Log entry 12. -/
def resetBlock (s : State) : State :=
  { State.reset with pending := s.pending, resetCount := s.resetCount + 1 }

/-- One event between two commands; a move that rule R226 says does not exist is refused. -/
def performEvent (e : Event) (s : State) : Host.Outcome State Fault Refusal :=
  match e with
  | .reset => .next (resetBlock s)
  | .move m => if m.allowed then hostMove m s else .refused (.noSuchMove m)

/-- The next event of the host, taken off the input; where there is none the block stays as it is (rules R227
and R231). Log entry 7. -/
def takeEvent (s : State) : Host.Outcome State Fault Refusal :=
  match s.pending with
  | [] => .next s
  | e :: rest => performEvent e { s with pending := rest, reply := none }

/-- The event that gives the command of a table word, where the number is a word. -/
def commandEvents (nbits w : Nat) : List Event :=
  match tableWord nbits w with
  | some cw => [.move (.cmd cw)]
  | none => []

/-- `PUTS "text"`: one `CMD CSPUT c` a character (rule R87). -/
def puts (text : Bytes) : List Event := text.map fun c => .move (.cmd (encode (.csput c)))

/-- `WRB i + k, text[k]` for each `k` in turn (rule R87). -/
def loadBytes : Nat → Bytes → List Event
  | _, [] => []
  | i, b :: bs => .move (.wrb i b) :: loadBytes (i + 1) bs

/-- `LOADBUF "text"` (rule R87). -/
def loadbuf (text : Bytes) : List Event := loadBytes 0 text ++ [.move (.wrc 2 text.length)]

/-- `SAMPLE ax, ay, az, gx, gy, gz, mx, my, mz`: the nine WRS in that order (rule R87). -/
def sample (accel gyro mag : Vec3 Scalar) : List Event :=
  [.move (.wrs 0 accel.x), .move (.wrs 1 accel.y), .move (.wrs 2 accel.z),
   .move (.wrs 3 gyro.x), .move (.wrs 4 gyro.y), .move (.wrs 5 gyro.z),
   .move (.wrs 6 mag.x), .move (.wrs 7 mag.y), .move (.wrs 8 mag.z)]

end Sys2Proof.Machine
end

