-- ==== Sys2Proof/Machine/Step.lean ====
section
/-! DEFINITION. One step of the machine: the next event of the host (rules R5, R59 and R226). -/

namespace Sys2Proof.Machine

/-- One step: the next event between two commands, or nothing where the host has none. -/
def step (s : State) : Host.Outcome State Fault Refusal := takeEvent s

/-- The registers among the operands of the command of a word of the opcode table, which a host that gives it
has written (rules R227 and R242). -/
def wordOperands (nbits w : Nat) : List Reg :=
  match decodeTableWord nbits w with
  | some i => operandsOf i
  | none => []

/-- The state whose next event is the command of the given word of the opcode table: the block fetches no
commands, the host gives them (rule R25), so the word goes to the front of the host's input; and the registers
among its operands count as written, with the values they hold, which is the host's duty before it gives the
command (rules R227 and R242) and without which the command would be refused (rule R39). Log entry 7. -/
def State.withFetchWord (s : State) (nbits w : Nat) : State :=
  { s with pending := commandEvents nbits w ++ s.pending }.markAll (wordOperands nbits w)

end Sys2Proof.Machine
end

