-- ==== Sys2Proof/Safety.lean ====
section
/-! DEFINITION. The terms the statements are written in: the invariant of the registers, the operands a command needs
(rule R242), the form of a frame, the events a step takes, and correct rounding. -/

namespace Sys2Proof.Machine

/-- `BUF[0..LEN)` is `bytes`: LEN is their number, they have room, and each has been written (rules R50 and
R51). -/
def State.holds (s : State) (bytes : Bytes) : Prop :=
  s.len.toNat = bytes.length ∧ bytes.length ≤ Config.bufCap ∧
    ∀ i (h : i < bytes.length), memRead s.buf i = some bytes[i]

/-- What the spec says of the registers at all times: the buffer is in its canonical form, LEN is at most
BUF_CAP (rule R29), the reserved bits of STATUS are 0 (rule R26), ERR is at most 4 (rule R28); RKIND, RTMS and
RNF are written together, and RKIND and RNF are then a kind and its field count (rule R33); and the registers
that reset writes are written (rule R38). -/
structure State.Inv (s : State) : Prop where
  bufWf : Memory.wf s.buf
  lenFits : s.len.toNat ≤ Config.bufCap
  statusReserved : s.status.toNat < 8
  errCode : s.err.toNat ≤ 4
  resultsTogether : s.isWritten (.control .rtms) = s.isWritten (.control .rkind) ∧
    s.isWritten (.control .rnf) = s.isWritten (.control .rkind)
  kindCount : s.isWritten (.control .rkind) = true → (s.rkind = 1 ∧ s.rnf = 8) ∨ (s.rkind = 2 ∧ s.rnf = 5)
  resetWritten : ∀ r ∈ Reg.setByReset, s.isWritten r = true

/-- Every source register of a frame kind holds a finite value: what ENC needs (rules R139 and R154). -/
def State.finiteSources (s : State) (e : FrameFormat) : Prop :=
  ∀ f ∈ e.fields, num.finite (s.scalar f.1) = true

/-- Every one of these registers has been written since reset (rule R39). -/
def State.writtenAll (s : State) (rs : List Reg) : Prop := ∀ r ∈ rs, s.isWritten r = true

/-- TMS and the source registers of a frame kind have been written since reset, and the sources are finite: what
ENC needs (rules R39, R139 and R242). -/
def State.readySources (s : State) (e : FrameFormat) : Prop := s.writtenAll (encOperands e) ∧ s.finiteSources e

/-- The registers written since reset are those of `s` and these (rule R39). -/
def State.marks (t s : State) (rs : List Reg) : Prop :=
  ∀ r, t.isWritten r = (decide (r ∈ rs) || s.isWritten r)

/-- The buffer holds the frame `frame` from index 0, LEN is its length, the bytes after it are those of `s`,
and so is every other piece of state (rules R50 and R132). -/
def State.holdsFrameOver (t s : State) (frame : Bytes) : Prop :=
  t.len.toNat = frame.length ∧
    (∀ i (h : i < frame.length), memRead t.buf i = some frame[i]) ∧
    (∀ i, frame.length ≤ i → memRead t.buf i = memRead s.buf i) ∧
    { t with buf := s.buf, len := s.len } = s

/-- The commands in turn, as the host gives them with no move between, stopping where one stops. -/
def execAll : List Instr → State → Host.Outcome State Fault Refusal
  | [], s => .next s
  | i :: is, s => andThen (exec i s) (execAll is)

/-- `n` ticks of UPDATE on one sample (rules R190 and R257). -/
def updateTicks : Nat → State → Host.Outcome State Fault Refusal
  | 0, s => .next s
  | n + 1, s => andThen (exec .update s) (updateTicks n)

/-- The next event is the move `m`, and `s` without it is the state the move acts on. -/
def State.nextMove (s : State) (m : HostMove) (base : State) : Prop :=
  ∃ rest, s.pending = .move m :: rest ∧ base = { s with pending := rest, reply := none }

/-- The table of rule R74, written out: the number of each scalar register. -/
def scalarNumbers : List (Nat × SReg) :=
  [(0, .ax), (1, .ay), (2, .az), (3, .gx), (4, .gy), (5, .gz), (6, .mx), (7, .my), (8, .mz),
   (9, .dt), (10, .alt), (11, .temp), (12, .q0), (13, .q1), (14, .q2), (15, .q3), (16, .roll), (17, .pitch),
   (18, .yaw), (19, .an0), (20, .an1), (21, .an2), (22, .mn0), (23, .mn1), (24, .mn2), (25, .r0), (26, .r1),
   (27, .r2), (28, .r3), (29, .r4), (30, .r5), (31, .r6), (32, .r7)]

/-- The tables of rules R75 and R27, written out: of each control register its number, its width, and what it
holds, zero-extended to 32 bits (log entry 13). -/
def State.controlNumbers (s : State) : List (Nat × CReg × Nat × U32) :=
  [(0, .status, 8, s.status.setWidth 32), (1, .err, 8, s.err.setWidth 32), (2, .len, 16, s.len.setWidth 32),
   (3, .tms, 32, s.tms), (4, .expect, 16, s.expect.setWidth 32), (5, .digest, 16, s.digest.setWidth 32),
   (6, .xoracc, 8, s.xoracc.setWidth 32), (7, .crcacc, 16, s.crcacc.setWidth 32),
   (8, .rkind, 8, s.rkind.setWidth 32), (9, .rtms, 32, s.rtms), (10, .rnf, 8, s.rnf.setWidth 32)]

/-- The reading moves that exist (rule R226): RDS of 0 to 32, RDC of 0 to 10, RDB below BUF_CAP. -/
def readsLocation (m : HostMove) : Prop :=
  (∃ n, m = .rds n ∧ n ≤ 32) ∨ (∃ n, m = .rdc n ∧ n ≤ 10) ∨ ∃ i, m = .rdb i ∧ i < Config.bufCap

/-- The next event is the command `i`. -/
def State.gives (s : State) (i : Instr) : Prop :=
  ∃ w rest, s.pending = .move (.cmd w) :: rest ∧ decode w = .ok i

/-- The next event is an illegal command word. -/
def State.givesIllegal (s : State) : Prop :=
  ∃ w rest e, s.pending = .move (.cmd w) :: rest ∧ decode w = .error e

/-- The next event is reset. -/
def State.resets (s : State) : Prop := ∃ rest, s.pending = .reset :: rest

/-- The commands that read `BUF[0..LEN)` (rule R50). -/
def readsBuffer : Instr → Prop
  | .xor8 => True
  | .crc16 => True
  | .verify _ => True
  | .dec => True
  | _ => False

/-- The markers of a sequence, its payload and its digest field: the first `$`, and the first `*`, which lies
after it (rule R144). -/
def framedAs (bytes payload dfield : Bytes) : Prop :=
  ∃ before, bytes = before ++ chDollar :: payload ++ chStar :: dfield ∧
    chDollar ∉ before ∧ chStar ∉ before ∧ chStar ∉ payload

/-- Pieces with a comma between each two (rules R78 and R147). -/
def joinComma : List Bytes → Bytes
  | [] => []
  | [p] => p
  | p :: q :: ps => p ++ chComma :: joinComma (q :: ps)

/-- A sequence whose markers and digest are right under algorithm `a`, with the given pieces of the payload, the
first of them the tag (rules R144, R146 and R147). -/
def checkedFrame (bytes : Bytes) (a : Alg) (tag : Bytes) (rest : List Bytes) : Prop :=
  framedAs bytes (joinComma (tag :: rest)) (digestField a (joinComma (tag :: rest))) ∧
    ∀ p ∈ tag :: rest, chComma ∉ p

/-- The text of a sign (rule R150). -/
def signText (neg : Bool) : Bytes := if neg then [chMinus] else []

/-- The magnitude a finite value prints with `p` fraction digits: the decimal numeral of rule R136. -/
def fixedValue {T : Type} (N : Num T) (v : T) (p : Nat) : Rat := mkRat (fixedUnits N v p) (10 ^ p)

/-- The first magnitude that rounds to an infinity: half a unit above the largest finite magnitude. -/
def b32Overflow : Rat := (2 ^ 25 - 1) * 2 ^ 103

/-- `v` is the finite value nearest to the real number `x`, and the one of even significand where two are
equally near (rule R7: round to nearest, ties to even). -/
def isNearestEven (x : ℝ) (v : Scalar) : Prop :=
  ∃ neg code, v = .fin neg code ∧
    ∀ neg' code', |(b32Val (.fin neg code) : ℝ) - x| ≤ |(b32Val (.fin neg' code') : ℝ) - x| ∧
      (|(b32Val (.fin neg code) : ℝ) - x| = |(b32Val (.fin neg' code') : ℝ) - x| →
        b32Val (.fin neg' code') ≠ b32Val (.fin neg code) → code.val % 2 = 0)

/-- The squared norm of a quaternion of finite values, exactly. -/
def normSq (q : Quat Scalar) : Rat :=
  b32Val q.q0 ^ 2 + b32Val q.q1 ^ 2 + b32Val q.q2 ^ 2 + b32Val q.q3 ^ 2

/-- Every component is finite. -/
def finiteQuat (q : Quat Scalar) : Prop :=
  b32Finite q.q0 = true ∧ b32Finite q.q1 = true ∧ b32Finite q.q2 = true ∧ b32Finite q.q3 = true

/-- The identity rotation (rule R34). -/
def identityQuat : Quat Scalar := ⟨b32One, b32Zero, b32Zero, b32Zero⟩

/-- 9.81 as binary32 holds it (rule R190). -/
def b32Gravity : Scalar := .fin false 0x411CF5C3

/-- The number a byte sequence spells in base 256, first byte most significant. -/
def bytesNat (bytes : Bytes) : Nat := bytes.foldl (fun n b => 256 * n + b.toNat) 0

/-- The 8 iterations and the byte of `crc_step` as arithmetic on natural numbers (rules R101 and R113). -/
def crcIterate (c : Nat) : Nat := if 32768 ≤ c then (2 * c) % 65536 ^^^ 0x1021 else (2 * c) % 65536

end Sys2Proof.Machine
end

