-- ==== Sys2Proof/Certificates/Slice0/Obligations.lean ====
section
/-! DEFINITION. The statements for the provers. -/

section
open Sys2Proof Sys2Proof.Machine Polynomial

/-- The polynomial over GF(2) whose coefficients are the bits of `n`. -/
noncomputable def Sys2Proof.Machine.bitsPoly (n : Nat) : (ZMod 2)[X] :=
  ∑ i ∈ Finset.range (Nat.log2 n + 1), if n.testBit i then X ^ i else 0

/-! ### Command words -/

/-- Words written out from rule R71, and illegal ones from rule R86. -/
def Obligations.CommandWordsDecodeAsTabled : Prop :=
  decode 0x0100 = .ok .csinit ∧ decode 0x0241 = .ok (.csput 0x41) ∧ decode 0x0501 = .ok (.verify .crc16) ∧
    decode 0x1001 = .ok .encL1 ∧ decode 0x1002 = .ok .encL2 ∧ decode 0x1100 = .ok .dec ∧
    decode 0x2000 = .ok .update ∧ decode 0x2100 = .ok .euler ∧
    decode 0x0502 = .error (.unknownAlg 2) ∧ decode 0x1000 = .error (.unknownKind 0) ∧
    decode 0x2001 = .error (.argNotZero 1) ∧ decode 0xFFFF = .error (.unknownOp 0xFF)

/-- Decoding and encoding are inverse on every word and every command (rules R70 to R72). -/
def Obligations.DecodeExactlyInvertsEncode : Prop :=
  ∀ (w : U16) (i : Instr), decode w = .ok i ↔ w = encode i

/-- A word is a command exactly when a row of the opcode table accepts it; no two rows accept one word; and the
row that accepts it is the row of the command it decodes to (rule R71). -/
def Obligations.TableRowsAcceptExactlyCommands : Prop :=
  ∀ w : U16,
    ((∃ i, decode w = .ok i) ↔ ∃ r ∈ opcodeTable, (w &&& r.mask) = r.matchBits) ∧
    (∀ r₁ ∈ opcodeTable, ∀ r₂ ∈ opcodeTable,
      (w &&& r₁.mask) = r₁.matchBits → (w &&& r₂.mask) = r₂.matchBits → r₁ = r₂) ∧
    (∀ i, decode w = .ok i → i.row ∈ opcodeTable ∧ (w &&& i.row.mask) = i.row.matchBits)

/-- Rule R86: exactly the listed words are illegal, and an illegal word sets STATUS.ILL and changes nothing
else (the move itself is taken off the host's input). That the host's moves stand in a queue is the model's
form (log entry 7). -/
def Obligations.IllegalWordSetsIllAlone : Prop :=
  (∀ w : U16, (∃ e, decode w = .error e) ↔
    (cwOp w ∉ [0x01, 0x02, 0x03, 0x04, 0x05, 0x10, 0x11, 0x20, 0x21] ∨
      (cwOp w ∈ [0x01, 0x03, 0x04, 0x11, 0x20, 0x21] ∧ cwArg w ≠ 0) ∨
      (cwOp w = 0x05 ∧ 1 < (cwArg w).toNat) ∨
      (cwOp w = 0x10 ∧ cwArg w ≠ 1 ∧ cwArg w ≠ 2))) ∧
  ∀ (s base : State) (w : U16) (e : IllegalWord), s.nextMove (.cmd w) base → decode w = .error e →
    step s = .next { base with status := s.status ||| 0x04 }

/-- A step runs the decoded command: where the next move gives a word that decodes to `i`, the step is `exec
i` on the state without that move; and so it is for the word of any command placed by `withFetchWord`, with
the registers among its operands counted as written. The queue of host moves, the reply and the marks of
written registers are the model's own (log entries 5 and 7). -/
def Obligations.StepRunsDecodedCommand : Prop :=
  (∀ (s base : State) (w : U16) (i : Instr), s.nextMove (.cmd w) base → decode w = .ok i →
    step s = exec i base) ∧
  ∀ (s : State) (i : Instr),
    step (s.withFetchWord 16 (encode i).toNat) = exec i ({ s with reply := none }.markAll (operandsOf i))

/-! ### Host moves and reset -/

/-- Rules R74 and R226, `WRS n, v` and `WRC n, v`: the scalar register of number `n`, as the table of rule R74
names it (AX to TEMP for 0 to 11), holds `v`; LEN, TMS or EXPECT holds `v`; the register now counts as written
(rule R39); and nothing else changes. The queue of host moves and the marks are the model's form (log entries
5 and 7). -/
def Obligations.HostWritesOneRegister : Prop :=
  (∀ (s base : State) (n : Nat) (v : Scalar) (r : SReg), n < 12 → (n, r) ∈ scalarNumbers →
    s.nextMove (.wrs n v) base →
    ∃ t, step s = .next t ∧ t.scalars[n]? = some v ∧ (∀ r', t.scalar r' = if r' = r then v else s.scalar r') ∧
      t.marks s [.scalar r] ∧ { t with scalars := s.scalars, written := s.written } = base) ∧
  (∀ (s base : State) (v : Nat), v ≤ Config.bufCap → s.nextMove (.wrc 2 v) base →
    ∃ t, step s = .next t ∧ t.len.toNat = v ∧ { t with len := s.len } = base) ∧
  (∀ (s base : State) (v : Nat), v < 2 ^ 32 → s.nextMove (.wrc 3 v) base →
    ∃ t, step s = .next t ∧ t.tms.toNat = v ∧ t.marks s [.control .tms] ∧
      { t with tms := s.tms, written := s.written } = base) ∧
  (∀ (s base : State) (v : Nat), v < 2 ^ 16 → s.nextMove (.wrc 4 v) base →
    ∃ t, step s = .next t ∧ t.expect.toNat = v ∧ t.marks s [.control .expect] ∧
      { t with expect := s.expect, written := s.written } = base)

/-- Rule R226, `WRB i, b`: the byte of index `i` is `b`, every other byte and everything else is unchanged.
The queue of host moves is the model's form (log entry 7). -/
def Obligations.HostWritesOneByte : Prop :=
  ∀ (s base : State) (i : Nat) (b : Byte), i < Config.bufCap → s.nextMove (.wrb i b) base →
    ∃ t, step s = .next t ∧ (∀ j, memRead t.buf j = if j = i then some b else memRead s.buf j) ∧
      { t with buf := s.buf } = base

/-- Rules R226, R56, R74, R75 and R39: a reading move returns the value of the location, by the numbers of the
two tables, and changes nothing; a register or byte that nothing has written since reset reads as some value
of its width, the same at every read between two resets; and the same read twice in a row gives the same reply
and the same state. The free values, the marks of written registers, the reply field and the width of a reply
are the model's own (log entries 5, 6, 7 and 13). -/
def Obligations.HostReadsReturnValuesAlone : Prop :=
  (∀ (s base : State) (n : Nat) (r : SReg), (n, r) ∈ scalarNumbers → s.isWritten (.scalar r) = true →
    s.nextMove (.rds n) base →
    s.scalars[n]? = some (s.scalar r) ∧ step s = .next { base with reply := some (.scalar (s.scalar r)) }) ∧
  (∀ (s base : State) (n : Nat) (r : CReg) (w : Nat) (v : U32), (n, r, w, v) ∈ s.controlNumbers →
    s.isWritten (.control r) = true → s.nextMove (.rdc n) base →
    step s = .next { base with reply := some (.control v) }) ∧
  (∀ (s base : State) (i : Nat) (b : Byte), i < Config.bufCap → memRead s.buf i = some b →
    s.nextMove (.rdb i) base → step s = .next { base with reply := some (.byte b) }) ∧
  (∀ (s s' base base' : State) (n : Nat) (r : SReg), (n, r) ∈ scalarNumbers →
    s.isWritten (.scalar r) = false → s'.isWritten (.scalar r) = false → s.resetCount = s'.resetCount →
    s.nextMove (.rds n) base → s'.nextMove (.rds n) base' →
    ∃ v, step s = .next { base with reply := some (.scalar v) } ∧
      step s' = .next { base' with reply := some (.scalar v) }) ∧
  (∀ (s s' base base' : State) (n : Nat) (r : CReg) (w : Nat) (v : U32), (n, r, w, v) ∈ s.controlNumbers →
    s.isWritten (.control r) = false → s'.isWritten (.control r) = false → s.resetCount = s'.resetCount →
    s.nextMove (.rdc n) base → s'.nextMove (.rdc n) base' →
    ∃ u : U32, u.toNat < 2 ^ w ∧ step s = .next { base with reply := some (.control u) } ∧
      step s' = .next { base' with reply := some (.control u) }) ∧
  (∀ (s s' base base' : State) (i : Nat), i < Config.bufCap → memRead s.buf i = none →
    memRead s'.buf i = none → s.resetCount = s'.resetCount → s.nextMove (.rdb i) base →
    s'.nextMove (.rdb i) base' →
    ∃ b, step s = .next { base with reply := some (.byte b) } ∧
      step s' = .next { base' with reply := some (.byte b) }) ∧
  ∀ (s : State) (m : HostMove) (rest : List Event), readsLocation m →
    s.pending = .move m :: .move m :: rest →
    ∃ t, step s = .next t ∧ step t = .next { t with pending := rest }

/-- Rules R226, R53 and R57: a move outside the column "allowed when" does not exist: no write of a register
past TEMP, of a reserved number, of LEN above BUF_CAP, no access past the buffer. That such a move can stand
in the queue, and is then refused, is the model's form (log entry 11). -/
def Obligations.MovesOutsideTheTableDoNotExist : Prop :=
  ∀ (s base : State) (m : HostMove),
    ((∃ n v, m = .wrs n v ∧ 12 ≤ n) ∨ (∃ n, m = .rds n ∧ 33 ≤ n) ∨
      (∃ n v, m = .wrc n v ∧ n ≠ 2 ∧ n ≠ 3 ∧ n ≠ 4) ∨ (∃ v, m = .wrc 2 v ∧ Config.bufCap < v) ∨
      (∃ v, m = .wrc 3 v ∧ 2 ^ 32 ≤ v) ∨ (∃ v, m = .wrc 4 v ∧ 2 ^ 16 ≤ v) ∨
      (∃ n, m = .rdc n ∧ 11 ≤ n) ∨ (∃ i b, m = .wrb i b ∧ Config.bufCap ≤ i) ∨
      (∃ i, m = .rdb i ∧ Config.bufCap ≤ i)) →
    s.nextMove m base → step s = .refused (.noSuchMove m)

/-- Rules R240 and R38: the state after reset has the values the spec gives, and the reset event loads them
whatever the state was; every other register and every byte of the buffer is unspecified, which the model says
by having no mark of a write and no byte (log entries 5 and 8). -/
def Obligations.ResetEventLoadsResetValues : Prop :=
  let loads := fun t : State => t.quat = identityQuat ∧ t.xoracc = 0x00 ∧ t.crcacc = 0xFFFF ∧
    t.status = 0x00 ∧ t.err = 0x00 ∧ t.len = 0 ∧ t.buf = [] ∧
    ∀ r, t.isWritten r = decide (r ∈ [Reg.scalar .q0, .scalar .q1, .scalar .q2, .scalar .q3, .control .status,
      .control .err, .control .len, .control .xoracc, .control .crcacc])
  loads State.reset ∧
  ∀ (s : State) (rest : List Event), s.pending = .reset :: rest → ∃ t, step s = .next t ∧ loads t

/-- The invariant holds after reset. -/
def Obligations.ResetMeetsInv : Prop := State.reset.Inv

/-- Every step keeps the invariant, from every state that meets it (rules R26, R28, R29, R33, R38 and R50).
The marks of written registers are the model's own (log entry 5). -/
def Obligations.StepKeepsInv : Prop :=
  ∀ s t : State, s.Inv → step s = .next t → t.Inv

/-! ### The Checksum Engine -/

/-- Rule R104. -/
def Obligations.CsinitSeedsBothRegisters : Prop :=
  encode .csinit = 0x0100 ∧
  ∀ s : State, exec .csinit s = .next { s with xoracc := 0x00, crcacc := 0xFFFF }

/-- Rule R105. -/
def Obligations.CsputAbsorbsOneByte : Prop :=
  ∀ (b : Byte) (s : State),
    encode (.csput b) = 0x0200 ||| b.setWidth 16 ∧
    exec (.csput b) s = .next { s with xoracc := s.xoracc ^^^ b, crcacc := crcStep s.crcacc b }

/-- Rule R100: the recursion of the running exclusive-or; independence of grouping and of order. -/
def Obligations.XorDigestIgnoresGroupingAndOrder : Prop :=
  xor8 [] = 0x00 ∧ (∀ (l : Bytes) (b : Byte), xor8 (l ++ [b]) = xor8 l ^^^ b) ∧
    (∀ l m : Bytes, xor8 (l ++ m) = xor8 l ^^^ xor8 m) ∧
    ∀ l m : Bytes, l.Perm m → xor8 l = xor8 m

/-- Rule R112, its derived sentence: a single-bit flip always changes the XOR digest. -/
def Obligations.SingleBitFlipChangesXorDigest : Prop :=
  ∀ (l m : Bytes) (b : Byte) (k : Nat), k < 8 →
    xor8 (l ++ (b ^^^ BitVec.ofNat 8 (2 ^ k)) :: m) ≠ xor8 (l ++ b :: m)

/-- Rule R101 as arithmetic on natural numbers (rule R113 (b) and (c)): the byte is added in as 256 times
itself by exclusive-or, and the register is doubled modulo 65536 eight times. -/
def Obligations.CrcStepIsBitSerial : Prop :=
  ∀ (c : U16) (b : Byte), (crcStep c b).toNat = crcIterate^[8] (c.toNat ^^^ (256 * b.toNat))

/-- The CRC of a message is the remainder of the message, led by the initial register, modulo
x^16 + x^12 + x^5 + 1 (rules R101 and R102). -/
def Obligations.CrcIsPolynomialRemainder : Prop :=
  ∀ bytes : Bytes,
    bitsPoly (crc16 bytes).toNat =
      (bitsPoly 0xFFFF * X ^ (8 * bytes.length) + bitsPoly (bytesNat bytes) * X ^ 16) %ₘ
        (X ^ 16 + X ^ 12 + X ^ 5 + 1)

/-- A message followed by its own CRC, high byte first, has the CRC 0 (derived from rules R101 and R102). -/
def Obligations.CrcOfMessageAndItsCrcIsZero : Prop :=
  ∀ bytes : Bytes,
    crc16 (bytes ++ [(crc16 bytes).extractLsb' 8 8, (crc16 bytes).extractLsb' 0 8]) = 0

/-- Rule R111: streaming and whole-buffer digests agree, from CSINIT and from reset, and whole-buffer commands
between do not disturb the running registers. The spec marks the rule as derived from R100, R102, R104 and
R105. -/
def Obligations.StreamingMatchesWholeBuffer : Prop :=
  (∀ (s : State) (bytes : Bytes), execAll (.csinit :: bytes.map .csput) s =
    .next { s with xoracc := xor8 bytes, crcacc := crc16 bytes }) ∧
  (∀ bytes : Bytes, execAll (bytes.map .csput) State.reset =
    .next { State.reset with xoracc := xor8 bytes, crcacc := crc16 bytes }) ∧
  (∀ (i : Instr) (s t : State), i = .xor8 ∨ i = .crc16 ∨ (∃ a, i = .verify a) ∨ i = .encL1 ∨ i = .encL2 ∨ i = .dec →
    exec i s = .next t → t.xoracc = s.xoracc ∧ t.crcacc = s.crcacc)

/-- Rule R106. DIGEST then counts as written (rule R39): the mark that says so is the model's (log entry 5). -/
def Obligations.XorCommandDigestsBuffer : Prop :=
  encode .xor8 = 0x0300 ∧
  ∀ (s : State) (bytes : Bytes), s.holds bytes →
    exec .xor8 s = .next ({ s with digest := (xor8 bytes).setWidth 16 }.markWritten (.control .digest))

/-- Rule R107. DIGEST then counts as written (rule R39): the mark that says so is the model's (log entry 5). -/
def Obligations.CrcCommandDigestsBuffer : Prop :=
  encode .crc16 = 0x0400 ∧
  ∀ (s : State) (bytes : Bytes), s.holds bytes →
    exec .crc16 s = .next ({ s with digest := crc16 bytes }.markWritten (.control .digest))

/-- Rules R108 and R242: with EXPECT and its bytes written, MATCH alone is written, with the comparison of two
16-bit numbers. -/
def Obligations.VerifyWritesMatchAlone : Prop :=
  encode (.verify .xor8) = 0x0500 ∧ encode (.verify .crc16) = 0x0501 ∧
  ∀ (s : State) (bytes : Bytes) (alg : Alg), s.holds bytes → s.isWritten (.control .expect) = true →
    ∃ t, exec (.verify alg) s = .next t ∧
      (t.matchFlag = true ↔
        (match alg with
          | .xor8 => (xor8 bytes).toNat = s.expect.toNat
          | .crc16 => (crc16 bytes).toNat = s.expect.toNat)) ∧
      (∀ k, k ≠ 0 → t.status.getLsbD k = s.status.getLsbD k) ∧ { t with status := s.status } = s

/-- Rule R109: the digests of empty input, as functions and as commands with LEN = 0 (rules R106 and
R107). DIGEST then counts as written (rule R39): the mark that says so is the model's (log entry 5). -/
def Obligations.EmptyInputDigests : Prop :=
  xor8 [] = 0x00 ∧ crc16 [] = 0xFFFF ∧
  ∀ s : State, s.len = 0 →
    exec .xor8 s = .next ({ s with digest := 0x0000 }.markWritten (.control .digest)) ∧
      exec .crc16 s = .next ({ s with digest := 0xFFFF }.markWritten (.control .digest))

/-- Rules R39 and R242: a command that reads `BUF[0..LEN)` is refused at its first byte that nothing has
written since reset; and a command is refused at a register among its operands that nothing has written since
reset, where there is one (VERIFY where its bytes are there). The registers are those of the table of rule
R242, written out: so ENC 2 before any EULER is refused. The marks and the names of the refusals are the
model's (log entry 5). -/
def Obligations.UnwrittenLocationRefusesCommands : Prop :=
  (∀ (s : State) (i : Instr) (k : Nat), readsBuffer i → s.len.toNat ≤ Config.bufCap → k < s.len.toNat →
    memRead s.buf k = none → (∀ j, j < k → memRead s.buf j ≠ none) →
    exec i s = .refused (.unwrittenByte k)) ∧
  (∀ (s : State) (i : Instr) (r : Reg), r ∈ operandsOf i → s.isWritten r = false →
    (readsBuffer i → ∃ bytes, s.holds bytes) →
    ∃ r' ∈ operandsOf i, s.isWritten r' = false ∧ exec i s = .refused (.unwrittenRegister r')) ∧
  (∀ alg, operandsOf (.verify alg) = [.control .expect]) ∧
  operandsOf .encL1 = [.control .tms, .scalar .ax, .scalar .ay, .scalar .az, .scalar .gx, .scalar .gy,
    .scalar .gz, .scalar .alt, .scalar .temp] ∧
  operandsOf .encL2 = [.control .tms, .scalar .roll, .scalar .pitch, .scalar .yaw, .scalar .alt, .scalar .temp] ∧
  operandsOf .update = [.scalar .ax, .scalar .ay, .scalar .az, .scalar .gx, .scalar .gy, .scalar .gz,
    .scalar .mx, .scalar .my, .scalar .mz, .scalar .dt] ∧
  ∀ i, i = .csinit ∨ (∃ b, i = .csput b) ∨ i = .xor8 ∨ i = .crc16 ∨ i = .dec ∨ i = .euler → operandsOf i = []

/-- Rules R53 and R215: a command faults in one case alone, a reader of `BUF[0..LEN)` with LEN above BUF_CAP,
which the invariant rules out. The fault and its name are the model's (log entry 10). -/
def Obligations.FaultsExactlyPastTheBuffer : Prop :=
  (∀ (i : Instr) (s : State) (f : Fault), exec i s = .fault f ↔
    readsBuffer i ∧ Config.bufCap < s.len.toNat ∧ f = .noSuchIndex s.len.toNat) ∧
  ∀ (s : State) (f : Fault), s.Inv → step s ≠ .fault f

/-! ### The text functions of the Frame Codec -/

/-- Rule R133: `dec_u` is the one numeral of digits without a leading zero that denotes the number. -/
def Obligations.DecimalTextIsTheNumeral : Prop :=
  decU 0 = [chZero] ∧
  ∀ n : Nat, isDigits (decU n) = true ∧ digitsValue (decU n) = n ∧
    ((decU n).head? = some chZero → decU n = [chZero]) ∧
    ∀ t : Bytes, isDigits t = true → digitsValue t = n → (t.head? = some chZero → t = [chZero]) → t = decU n

/-- Rule R138: exactly `w` characters, each the digit of its four bits, and they spell the number. -/
def Obligations.HexTextSpellsTheNumber : Prop :=
  (∀ d, d < 10 → hexChar d = BitVec.ofNat 8 (0x30 + d)) ∧
  (∀ d, 10 ≤ d → d < 16 → hexChar d = BitVec.ofNat 8 (0x41 + (d - 10))) ∧
  ∀ v w : Nat, (hexW v w).length = w ∧
    (∀ k, k < w → (hexW v w)[k]? = some (hexChar ((v >>> (4 * (w - 1 - k))) % 16))) ∧
    ∀ v', v < 16 ^ w → v' < 16 ^ w → hexW v w = hexW v' w → v = v'

/-- Rule R136, the rounding, for every `NUM`: to nearest on the exact value, ties to the even digit. -/
def Obligations.FixedPointRoundsHalfEven : Prop :=
  ∀ (T : Type) (N : Num T) (v : T) (p : Nat),
    |(fixedUnits N v p : Rat) - |N.val v| * 10 ^ p| ≤ 1 / 2 ∧
    (|(fixedUnits N v p : Rat) - |N.val v| * 10 ^ p| = 1 / 2 → fixedUnits N v p % 2 = 0)

/-- Rules R136 and R78, the shape, for every `NUM`: a sign when `NUM.neg` holds, an integer part without
needless zeros, and exactly `p` fraction digits behind a point when `p` is positive; the digits spell the
rounded number. -/
def Obligations.FixedPointTextShape : Prop :=
  ∀ (T : Type) (N : Num T) (v : T) (p : Nat),
    ∃ int frac : Bytes,
      fmtFixed N v p = signText (N.neg v) ++ int ++ (if p = 0 then [] else chPoint :: frac) ∧
      isDigits int = true ∧ (int.head? = some chZero → int = [chZero]) ∧
      frac.all isDigit = true ∧ frac.length = p ∧ digitsValue (int ++ frac) = fixedUnits N v p

/-- Rules R150 and R152: exactly the numerals of the grammar are read, each as the sign and the magnitude its
digits denote, and the field's value is `NUM.ofDec` of them; every text `fmt_fixed` prints is one. -/
def Obligations.NumberGrammarIsExact : Prop :=
  (∀ (p : Bytes) (neg : Bool) (r : Rat), parseNumeral p = some (neg, r) ↔
    ∃ int, isDigits int = true ∧
      ((p = signText neg ++ int ∧ r = digitsValue int) ∨
        ∃ frac, isDigits frac = true ∧ p = signText neg ++ int ++ chPoint :: frac ∧
          r = (digitsValue (int ++ frac) : Rat) / 10 ^ frac.length)) ∧
  (∀ (T : Type) (N : Num T) (p : Bytes) (v : T),
    parseNum N p = some v ↔ ∃ neg r, parseNumeral p = some (neg, r) ∧ N.ofDec neg r = some v) ∧
  ∀ (T : Type) (N : Num T) (v : T) (p : Nat),
    parseNumeral (fmtFixed N v p) = some (N.neg v, fixedValue N v p)

/-- Rule R151. -/
def Obligations.TimestampGrammarIsExact : Prop :=
  ∀ (p : Bytes) (t : U32), parseTs p = some t ↔
    (p ≠ [] ∧ (∀ b ∈ p, 0x30 ≤ b.toNat ∧ b.toNat ≤ 0x39) ∧ digitsValue p < 2 ^ 32 ∧ t.toNat = digitsValue p)

/-- Rule R147, splitting: the pieces hold no comma, are one more than the commas, joined they give the payload
back, and they are the only such pieces. -/
def Obligations.SplitInvertsJoin : Prop :=
  (∀ s : Bytes, joinComma (splitOn chComma s) = s ∧ (∀ p ∈ splitOn chComma s, chComma ∉ p) ∧
    (splitOn chComma s).length = s.count chComma + 1) ∧
  ∀ ps : List Bytes, ps ≠ [] → (∀ p ∈ ps, chComma ∉ p) → splitOn chComma (joinComma ps) = ps

/-! ### ENC and DEC -/

/-- Rules R132, R79 and R242: ENC 1 with TMS and its sources written and the sources finite stores the Level-1
frame, at most MAXFRAME bytes, at index 0, writes LEN, and changes nothing else. -/
def Obligations.EncLevelOneStoresTheFrame : Prop :=
  encode .encL1 = 0x1001 ∧
  ∀ s : State, s.readySources Config.formatL1 →
    let field := fun (r : SReg) (p : Nat) => chComma :: fmtFixed num (s.scalar r) p
    let payload := [0x4C, 0x31] ++ chComma :: decU s.tms.toNat ++ field .ax 3 ++ field .ay 3 ++ field .az 3
      ++ field .gx 3 ++ field .gy 3 ++ field .gz 3 ++ field .alt 2 ++ field .temp 2
    let frame := chDollar :: payload ++ chStar :: hexW (xor8 payload).toNat 2
    frame.length ≤ Config.maxFrame ∧ ∃ t, exec .encL1 s = .next t ∧ t.holdsFrameOver s frame

/-- Rules R132, R80 and R242: ENC 2 with TMS and its sources written and the sources finite stores the Level-2
frame, at most MAXFRAME bytes, at index 0, writes LEN, and changes nothing else. -/
def Obligations.EncLevelTwoStoresTheFrame : Prop :=
  encode .encL2 = 0x1002 ∧
  ∀ s : State, s.readySources Config.formatL2 →
    let field := fun (r : SReg) (p : Nat) => chComma :: fmtFixed num (s.scalar r) p
    let payload := [0x4C, 0x32] ++ chComma :: decU s.tms.toNat ++ field .roll 2 ++ field .pitch 2
      ++ field .yaw 2 ++ field .alt 2 ++ field .temp 2
    let frame := chDollar :: payload ++ chStar :: hexW (crc16 payload).toNat 4
    frame.length ≤ Config.maxFrame ∧ ∃ t, exec .encL2 s = .next t ∧ t.holdsFrameOver s frame

/-- Rule R139: an ENC with TMS and its sources written that meets a source that is not finite is refused, by
the name of such a source. The refusal's name is the model's (log entry 9). -/
def Obligations.EncRefusesNonFiniteSource : Prop :=
  ∀ (s : State) (r : SReg) (p : Nat), num.finite (s.scalar r) = false →
    ((r, p) ∈ Config.formatL1.fields → s.writtenAll (operandsOf .encL1) →
      ∃ r' p', (r', p') ∈ Config.formatL1.fields ∧ num.finite (s.scalar r') = false ∧
        exec .encL1 s = .refused (.nonFiniteField r')) ∧
    ((r, p) ∈ Config.formatL2.fields → s.writtenAll (operandsOf .encL2) →
      ∃ r' p', (r', p') ∈ Config.formatL2.fields ∧ num.finite (s.scalar r') = false ∧
        exec .encL2 s = .refused (.nonFiniteField r'))

/-- Rules R153 and R212: DEC on a written buffer completes; when it reports an error it has written ERR alone,
with a code of rule R210. -/
def Obligations.DecFailureWritesErrAlone : Prop :=
  ∀ (s : State) (bytes : Bytes), s.holds bytes →
    ∃ t, exec .dec s = .next t ∧ t.err.toNat ≤ 4 ∧ (t.err ≠ 0 → t = { s with err := t.err })

/-- Rules R144 and R210: DEC reports MISSING_MARKERS exactly when there is no `$`, no `*`, or a `*` before
every `$`. -/
def Obligations.DecReportsMissingMarkersExactly : Prop :=
  ∀ (s : State) (bytes : Bytes), s.holds bytes →
    ∃ t, exec .dec s = .next t ∧
      (t.err = 1 ↔ (chDollar ∉ bytes ∨ chStar ∉ bytes ∨
        ∃ before after, bytes = before ++ chStar :: after ∧ chDollar ∉ before))

/-- Rule R146: with its markers in order, a frame whose digest field is neither the XOR8 text nor the CRC16 text
of its payload is CHECKSUM_INVALID, whatever else is wrong with it. -/
def Obligations.DecRejectsWrongDigest : Prop :=
  ∀ (s : State) (bytes payload dfield : Bytes), s.holds bytes → framedAs bytes payload dfield →
    dfield ≠ hexW (xor8 payload).toNat 2 → dfield ≠ hexW (crc16 payload).toNat 4 →
    exec .dec s = .next { s with err := 2 }

/-- Rule R148: a digest that is right under the other algorithm than the tag's is CHECKSUM_INVALID, before the
pieces are counted. -/
def Obligations.DecRejectsWrongAlgorithm : Prop :=
  ∀ (s : State) (bytes : Bytes) (rest : List Bytes), s.holds bytes →
    (checkedFrame bytes .crc16 [0x4C, 0x31] rest → exec .dec s = .next { s with err := 2 }) ∧
    (checkedFrame bytes .xor8 [0x4C, 0x32] rest → exec .dec s = .next { s with err := 2 })

/-- Rules R147 and R149: with a right digest, an unknown tag or a wrong number of pieces is
FIELD_COUNT_MISMATCH. -/
def Obligations.DecRejectsUnknownTagOrCount : Prop :=
  ∀ (s : State) (bytes : Bytes) (a : Alg) (tag : Bytes) (rest : List Bytes), s.holds bytes →
    checkedFrame bytes a tag rest →
    ((tag ≠ [0x4C, 0x31] ∧ tag ≠ [0x4C, 0x32]) ∨ (tag = [0x4C, 0x31] ∧ a = .xor8 ∧ rest.length ≠ 9) ∨
      (tag = [0x4C, 0x32] ∧ a = .crc16 ∧ rest.length ≠ 6)) →
    exec .dec s = .next { s with err := 3 }

/-- Rules R150 to R152: with a right digest, tag and count, a timestamp or a field that does not parse is
FIELD_PARSE_ERROR. -/
def Obligations.DecRejectsUnparsableField : Prop :=
  ∀ (s : State) (bytes : Bytes) (e : FrameFormat) (ts : Bytes) (fields : List Bytes), s.holds bytes →
    e ∈ Config.fmtTable → checkedFrame bytes e.alg e.tag (ts :: fields) → fields.length = e.fields.length →
    (parseTs ts = none ∨ ∃ f ∈ fields, parseNum num f = none) →
    exec .dec s = .next { s with err := 4 }

/-- Rules R142 and R153, success: ERR, RKIND, RTMS and RNF are written, R0 on receive the values in frame order,
and every other register, the buffer and LEN are unchanged; the registers written, and no others, now count as
written (rule R39; the model's marks, log entry 5). -/
def Obligations.DecSuccessWritesResults : Prop :=
  encode .dec = 0x1100 ∧
  ∀ (s : State) (bytes : Bytes) (e : FrameFormat) (ts : Bytes) (fields : List Bytes) (time : U32)
    (values : List Scalar), s.holds bytes → e ∈ Config.fmtTable →
    checkedFrame bytes e.alg e.tag (ts :: fields) → fields.length = e.fields.length →
    parseTs ts = some time → fields.map (parseNum num) = values.map some →
    ∃ t, exec .dec s = .next t ∧ t.err = 0 ∧ t.rkind = e.kind ∧ t.rtms = time ∧
      t.rnf.toNat = e.fields.length ∧
      (∀ k (h : k < values.length) (r : SReg), SReg.ofNumber (25 + k) = some r → t.scalar r = values[k]) ∧
      (∀ r : SReg, (∀ k, k < values.length → SReg.ofNumber (25 + k) ≠ some r) → t.scalar r = s.scalar r) ∧
      t.marks s ([.control .rkind, .control .rtms, .control .rnf]
        ++ (SReg.results.take e.fields.length).map Reg.scalar) ∧
      { t with
        scalars := s.scalars, err := s.err, rkind := s.rkind, rtms := s.rtms, rnf := s.rnf,
        written := s.written } = s

/-- Rule R146, tamper rejection: with one character of the digest field of a frame replaced by another, DEC
reports CHECKSUM_INVALID. -/
def Obligations.DecRejectsTamperedDigest : Prop :=
  ∀ (s : State) (alg : Alg) (payload : Bytes) (k : Nat) (c : Byte), chStar ∉ payload →
    k < (digestField alg payload).length → (digestField alg payload)[k]? ≠ some c →
    s.holds (chDollar :: payload ++ chStar :: (digestField alg payload).set k c) →
    exec .dec s = .next { s with err := 2 }

/-- Rule R154 for every `NUM`: parsing an encoded frame gives back the kind, the timestamp, and `NUM.ofDec` of
each printed value, whenever `NUM.ofDec` has a value for each. -/
def Obligations.CodecRoundTripForEveryNum : Prop :=
  ∀ (T : Type) (N : Num T) (e : FrameFormat) (t : U32) (fields : List (T × Nat)) (values : List T),
    e ∈ Config.fmtTable → fields.length = e.fields.length →
    fields.map (fun f => N.ofDec (N.neg f.1) (fixedValue N f.1 f.2)) = values.map some →
    parseFrame N Config.fmtTable (encodeFrame N e t fields) = .ok ⟨e.kind, t, values⟩

/-- Rule R154 on the machine: ENC on written and finite sources and then DEC on the unchanged buffer gives ERR = 0, the
kind, the timestamp, the field count, and in R0 on `NUM.ofDec` of each source rounded to its precision, which
is within half a unit of the last printed digit of the source; so R0 on differ from the sources by at most
that and the rounding of `NUM.ofDec`. The spec marks the rule as derived from R132, R142 and R8. -/
def Obligations.EncThenDecRoundTrip : Prop :=
  ∀ (s : State) (i : Instr) (e : FrameFormat),
    ((i = .encL1 ∧ e = Config.formatL1) ∨ (i = .encL2 ∧ e = Config.formatL2)) → s.readySources e →
    ∃ t u, exec i s = .next t ∧ exec .dec t = .next u ∧ u.err = 0 ∧ u.rkind = e.kind ∧ u.rtms = s.tms ∧
      u.rnf.toNat = e.fields.length ∧
      ∀ k (h : k < e.fields.length) (r : SReg), SReg.ofNumber (25 + k) = some r →
        num.ofDec (num.neg (s.scalar e.fields[k].1)) (fixedValue num (s.scalar e.fields[k].1) e.fields[k].2)
          = some (u.scalar r) ∧
        |fixedValue num (s.scalar e.fields[k].1) e.fields[k].2 - abs (num.val (s.scalar e.fields[k].1))|
          ≤ 1 / 2 / 10 ^ e.fields[k].2 ∧
        |num.val (u.scalar r) - num.val (s.scalar e.fields[k].1)| ≤ 1 / 2 / 10 ^ e.fields[k].2
          + |abs (num.val (u.scalar r)) - fixedValue num (s.scalar e.fields[k].1) e.fields[k].2|

/-! ### The Attitude Estimator -/

/-- Rules R171 and R242: with its operands written, UPDATE does its seven steps with the grouping of the rule,
its writes, and nothing else. The formula of the derivative is one the spec supplies from general knowledge
(rule R173, log entry 14); the value of `pi` is open (log entry 2); the marks of written registers are the
model's (log entry 5). -/
def Obligations.UpdateFollowsSevenSteps : Prop :=
  encode .update = 0x2000 ∧
  ∀ s : State, s.writtenAll (operandsOf .update) →
    let S := s.scalar
    let d2r := num.div num.pi num.c180
    let wx := num.mul (S .gx) d2r
    let wy := num.mul (S .gy) d2r
    let wz := num.mul (S .gz) d2r
    let d0 := num.mul num.half (num.sub (num.sub (num.mul (num.negate (S .q1)) wx) (num.mul (S .q2) wy)) (num.mul (S .q3) wz))
    let d1 := num.mul num.half (num.sub (num.add (num.mul (S .q0) wx) (num.mul (S .q2) wz)) (num.mul (S .q3) wy))
    let d2 := num.mul num.half (num.add (num.sub (num.mul (S .q0) wy) (num.mul (S .q1) wz)) (num.mul (S .q3) wx))
    let d3 := num.mul num.half (num.sub (num.add (num.mul (S .q0) wz) (num.mul (S .q1) wy)) (num.mul (S .q2) wx))
    let na := num.sqrt (num.add (num.add (num.mul (S .ax) (S .ax)) (num.mul (S .ay) (S .ay))) (num.mul (S .az) (S .az)))
    let nm := num.sqrt (num.add (num.add (num.mul (S .mx) (S .mx)) (num.mul (S .my) (S .my))) (num.mul (S .mz) (S .mz)))
    let p0 := num.add (S .q0) (num.mul d0 (S .dt))
    let p1 := num.add (S .q1) (num.mul d1 (S .dt))
    let p2 := num.add (S .q2) (num.mul d2 (S .dt))
    let p3 := num.add (S .q3) (num.mul d3 (S .dt))
    let n := num.sqrt (num.add (num.add (num.add (num.mul p0 p0) (num.mul p1 p1)) (num.mul p2 p2)) (num.mul p3 p3))
    ∃ t, exec .update s = .next t ∧
      t.quat = ⟨num.div p0 n, num.div p1 n, num.div p2 n, num.div p3 n⟩ ∧
      t.normAccel = (if num.isZero na then s.normAccel
        else ⟨num.div (S .ax) na, num.div (S .ay) na, num.div (S .az) na⟩) ∧
      t.normMag = (if num.isZero na || num.isZero nm then s.normMag
        else ⟨num.div (S .mx) nm, num.div (S .my) nm, num.div (S .mz) nm⟩) ∧
      t.degenFlag = (num.isZero na || num.isZero nm) ∧
      (∀ r, r ∉ [SReg.q0, .q1, .q2, .q3, .an0, .an1, .an2, .mn0, .mn1, .mn2] → t.scalar r = s.scalar r) ∧
      (∀ k, k ≠ 1 → t.status.getLsbD k = s.status.getLsbD k) ∧
      t.marks s ([.scalar .q0, .scalar .q1, .scalar .q2, .scalar .q3]
        ++ (if num.isZero na then [] else [.scalar .an0, .scalar .an1, .scalar .an2])
        ++ (if num.isZero na || num.isZero nm then [] else [.scalar .mn0, .scalar .mn1, .scalar .mn2])) ∧
      { t with scalars := s.scalars, status := s.status, written := s.written } = s

/-- Rules R174 and R175 on zero vectors: with its operands written, a zero accelerometer (either sign of zero
in each axis) sets DEGEN and keeps AN and MN; a zero magnetometer sets DEGEN and keeps MN; no register of
what is kept counts as written anew (rule R39; the marks are the model's, log entry 5). For the binary32 that
the model takes (log entry 1). -/
def Obligations.ZeroVectorsSetDegen : Prop :=
  ∀ s : State, s.writtenAll (operandsOf .update) →
    (num.isZero (s.scalar .ax) ∧ num.isZero (s.scalar .ay) ∧ num.isZero (s.scalar .az) →
      ∃ t, exec .update s = .next t ∧ t.degenFlag = true ∧ t.normAccel = s.normAccel ∧ t.normMag = s.normMag ∧
        ∀ r ∈ [Reg.scalar .an0, .scalar .an1, .scalar .an2, .scalar .mn0, .scalar .mn1, .scalar .mn2],
          t.isWritten r = s.isWritten r) ∧
    (num.isZero (s.scalar .mx) ∧ num.isZero (s.scalar .my) ∧ num.isZero (s.scalar .mz) →
      ∃ t, exec .update s = .next t ∧ t.degenFlag = true ∧ t.normMag = s.normMag ∧
        ∀ r ∈ [Reg.scalar .mn0, .scalar .mn1, .scalar .mn2], t.isWritten r = s.isWritten r)

/-- Rules R176 and R178: with the operands of UPDATE written, the accelerometer and the magnetometer do not act
on the quaternion. -/
def Obligations.QuaternionIgnoresAccelAndMag : Prop :=
  ∀ s s' : State, s.writtenAll (operandsOf .update) → s'.writtenAll (operandsOf .update) →
    s.gyro = s'.gyro → s.scalar .dt = s'.scalar .dt → s.quat = s'.quat →
    ∃ t t', exec .update s = .next t ∧ exec .update s' = .next t' ∧ t.quat = t'.quat

/-- Rule R190: with the operands of UPDATE written, from the identity rotation, on the sample of the rule with
zero rates (either sign), any number of ticks leaves the quaternion exactly the identity, AN = (0, 0, 1), MN not
written (the marks that say so are the model's, log entry 5) and DEGEN 1. For the binary32 that the model takes
(log entry 1); the rule's clause on EULER rests on open values (log entry 2) and is left out. -/
def Obligations.ZeroRateKeepsIdentity : Prop :=
  ∀ (s : State) (n : Nat), s.writtenAll (operandsOf .update) → 1 ≤ n → s.quat = identityQuat →
    num.isZero (s.scalar .gx) → num.isZero (s.scalar .gy) → num.isZero (s.scalar .gz) →
    num.finite (s.scalar .dt) → s.accel = ⟨b32Zero, b32Zero, b32Gravity⟩ →
    s.mag = ⟨b32Zero, b32Zero, b32Zero⟩ →
    ∃ t, updateTicks n s = .next t ∧ t.quat = identityQuat ∧ t.normAccel = ⟨b32Zero, b32Zero, b32One⟩ ∧
      t.normMag = s.normMag ∧ t.degenFlag = true ∧
      ∀ r ∈ [Reg.scalar .mn0, .scalar .mn1, .scalar .mn2], t.isWritten r = s.isWritten r

/-- Rules R180 and R189: with the operands of UPDATE written, where the integrated quaternion of step 6 is finite
and its norm neither tiny nor huge, UPDATE leaves a quaternion of norm within 1e-5 of 1; as does step 7 on any such quaternion. For the
binary32 that the model takes (log entry 1). -/
def Obligations.NormalizationGivesUnitNorm : Prop :=
  let unit := fun q : Quat Scalar => finiteQuat q ∧
    (1 - 1 / 100000) ^ 2 ≤ normSq q ∧ normSq q ≤ (1 + 1 / 100000) ^ 2
  let ordinary := fun p : Quat Scalar => finiteQuat p ∧ 1 / 4 ≤ normSq p ∧ normSq p ≤ 2 ^ 100
  (∀ p : Quat Scalar, ordinary p → unit (normalizeQuat num p)) ∧
  ∀ s : State, s.writtenAll (operandsOf .update) →
    ordinary (integrate num s.quat (quatDerivative num s.quat (gyroRates num s.gyro)) (s.scalar .dt)) →
    ∃ t, exec .update s = .next t ∧ unit t.quat

/-- Rules R182 and R183: EULER writes ROLL, PITCH and YAW by the formulas with the grouping of the rule, and
nothing else; given again it changes nothing. It completes from every state, right after reset too (rules R39
and R242). The values of `asin`, `atan2` and `pi` are open (log entry 2); the marks of written registers are the
model's (log entry 5). -/
def Obligations.EulerFollowsFormulas : Prop :=
  encode .euler = 0x2100 ∧
  ∀ s : State,
    let S := s.scalar
    let r2d := num.div num.c180 num.pi
    let ry := num.mul num.two (num.add (num.mul (S .q0) (S .q1)) (num.mul (S .q2) (S .q3)))
    let rx := num.sub num.one (num.mul num.two (num.add (num.mul (S .q1) (S .q1)) (num.mul (S .q2) (S .q2))))
    let p := num.mul num.two (num.sub (num.mul (S .q0) (S .q2)) (num.mul (S .q3) (S .q1)))
    let yy := num.mul num.two (num.add (num.mul (S .q0) (S .q3)) (num.mul (S .q1) (S .q2)))
    let yx := num.sub num.one (num.mul num.two (num.add (num.mul (S .q2) (S .q2)) (num.mul (S .q3) (S .q3))))
    ∃ t, exec .euler s = .next t ∧
      t.scalar .roll = num.mul (num.atan2 ry rx) r2d ∧
      t.scalar .pitch = num.mul (num.asin (clampUnit num p)) r2d ∧
      t.scalar .yaw = num.mul (num.atan2 yy yx) r2d ∧
      (∀ r, r ∉ [SReg.roll, .pitch, .yaw] → t.scalar r = s.scalar r) ∧
      t.marks s [.scalar .roll, .scalar .pitch, .scalar .yaw] ∧
      { t with scalars := s.scalars, written := s.written } = s ∧ exec .euler t = .next t

/-- Rule R184: the clamp brings every number into [-1, 1], leaves a value inside unchanged, and passes a
not-a-number. For the binary32 that the model takes (log entry 1). -/
def Obligations.ClampBringsIntoUnitRange : Prop :=
  (∀ s : Scalar, num.lt num.one s = true → clampUnit num s = num.one) ∧
  (∀ s : Scalar, num.lt s (num.negate num.one) = true → clampUnit num s = num.negate num.one) ∧
  (∀ s : Scalar, num.lt num.one s = false → num.lt s (num.negate num.one) = false → clampUnit num s = s) ∧
  clampUnit num .nan = .nan ∧
  ∀ s : Scalar, s ≠ .nan → b32Finite (clampUnit num s) = true ∧ |b32Val (clampUnit num s)| ≤ 1

/-- Rule R191: where the argument of `asin` is clamped to one or is exactly one, PITCH is exactly 90; to minus
one, exactly -90. It holds for every value of the open `asin` and `pi` (log entry 2). -/
def Obligations.GimbalLockPitchIsExact : Prop :=
  ∀ s : State, ∃ t, exec .euler s = .next t ∧
    (clampUnit num (pitchSine num s.quat) = num.one → t.scalar .pitch = b32Ninety) ∧
    (clampUnit num (pitchSine num s.quat) = num.negate num.one → t.scalar .pitch = b32Negate b32Ninety)

/-! ### The number format -/

/-- Rule R7 for binary32: addition, subtraction, multiplication and division of finite values are correctly
rounded to nearest even, overflowing to an infinity; the sign of a product and of a quotient is the
exclusive-or of the operands'. That `NUM` is binary32 is the model's choice (log entry 1). -/
def Obligations.ArithmeticIsCorrectlyRounded : Prop :=
  ∀ (s t : Bool) (a b : Fin 0x7F800000),
    let x : Scalar := .fin s a
    let y : Scalar := .fin t b
    let rounds := fun (exact : Rat) (v : Scalar) =>
      (|exact| < b32Overflow → isNearestEven exact v) ∧ (b32Overflow ≤ |exact| → v = .inf (decide (exact < 0)))
    rounds (b32Val x + b32Val y) (num.add x y) ∧ rounds (b32Val x - b32Val y) (num.sub x y) ∧
      rounds (b32Val x * b32Val y) (num.mul x y) ∧
      (b.val ≠ 0 → rounds (b32Val x / b32Val y) (num.div x y) ∧ num.neg (num.div x y) = (s != t)) ∧
      num.neg (num.mul x y) = (s != t)

/-- Rule R7 for binary32: the square root of a finite value that is not negative, a zero of either sign among
them, is correctly rounded. That `NUM` is binary32 is the model's choice (log entry 1). -/
def Obligations.SquareRootIsCorrectlyRounded : Prop :=
  ∀ (neg : Bool) (a : Fin 0x7F800000), 0 ≤ b32Val (.fin neg a) →
    isNearestEven (Real.sqrt (b32Val (.fin neg a))) (num.sqrt (.fin neg a))

/-- Rules R7 and R152 for binary32: `NUM.ofDec` gives a finite value of the sign of the numeral, with no
magnitude of the format strictly between the two or at the numeral itself unless it is that one; none only
above the largest finite magnitude, and always from 2^128 on. Which neighbour is configuration (rule R7), a
choice at each numeral, and one choice at each is the nearest value, ties to even, that rule R152 states for
binary32, none exactly from half a unit above the largest finite magnitude on. That the configuration is held
to the neighbours is the model's choice (log entry 3). -/
def Obligations.OfDecRoundsToANeighbour : Prop :=
  (∀ (neg : Bool) (r : Rat), 0 ≤ r →
    (∀ v, num.ofDec neg r = some v → ∃ code, v = .fin neg code ∧
      ∀ code', let x := b32Val (.fin false code); let y := b32Val (.fin false code')
        ¬(x < y ∧ y ≤ r) ∧ ¬(r ≤ y ∧ y < x)) ∧
    (r ≤ b32Val (.fin false 0x7F7FFFFF) → num.ofDec neg r ≠ none) ∧
    (2 ^ 128 ≤ r → num.ofDec neg r = none)) ∧
  (∀ (neg : Bool) (r : Rat), num.ofDec neg r = b32DecRound (Config.freeDecUp neg r) neg r ∧
    ∃ up, b32OfDec neg r = b32DecRound up neg r) ∧
  ∀ (neg : Bool) (r : Rat), 0 ≤ r →
    (r < b32Overflow → ∃ code, b32OfDec neg r = some (.fin neg code) ∧
      isNearestEven (if neg then -(r : ℝ) else (r : ℝ)) (.fin neg code)) ∧
    (b32Overflow ≤ r → b32OfDec neg r = none)

/-- Rule R8, P-ZERO, on finite values: a product with an exact zero is zero, and adding zero changes no value.
For the binary32 that the model takes (log entry 1). -/
def Obligations.ZeroIsAbsorbingAndNeutral : Prop :=
  ∀ v z : Scalar, num.finite v → num.isZero z →
    num.isZero (num.mul z v) = true ∧ num.isZero (num.mul v z) = true ∧
      num.finite (num.add v z) = true ∧ num.val (num.add v z) = num.val v ∧
      num.finite (num.add z v) = true ∧ num.val (num.add z v) = num.val v

/-! ### Which events write which state -/

/-- Rules R26, R28, R32 and R34: the quaternion changes by UPDATE and reset alone, ERR by DEC and reset,
XORACC and CRCACC by CSINIT, CSPUT and reset, MATCH by VERIFY and reset, DEGEN by UPDATE and reset; ILL is set
by an illegal word alone and cleared by reset alone. The event is the first of the model's queue (log entry
7). -/
def Obligations.RegistersHaveTheirWriters : Prop :=
  ∀ s t : State, step s = .next t →
    (t.quat ≠ s.quat → s.resets ∨ s.gives .update) ∧
    (t.err ≠ s.err → s.resets ∨ s.gives .dec) ∧
    (t.xoracc ≠ s.xoracc ∨ t.crcacc ≠ s.crcacc → s.resets ∨ s.gives .csinit ∨ ∃ b, s.gives (.csput b)) ∧
    (t.matchFlag ≠ s.matchFlag → s.resets ∨ ∃ a, s.gives (.verify a)) ∧
    (t.degenFlag ≠ s.degenFlag → s.resets ∨ s.gives .update) ∧
    (s.illFlag = false → t.illFlag = true → s.givesIllegal) ∧
    (s.illFlag = true → t.illFlag = false → s.resets)

/-- Rule R50: a byte of the buffer changes by a WRB of its index, by an ENC whose frame reaches it, or by
reset alone. The event is the first of the model's queue (log entry 7). -/
def Obligations.BufferBytesHaveTheirWriters : Prop :=
  ∀ (s t : State) (i : Nat), step s = .next t → memRead t.buf i ≠ memRead s.buf i →
    s.resets ∨ (∃ b base, s.nextMove (.wrb i b) base) ∨ ((s.gives .encL1 ∨ s.gives .encL2) ∧ i < t.len.toNat)

end
end

