-- ==== Sys2Proof/Laws/Config.lean ====
section
/-! SUPPORT. The bounds of the buffer, and the two tests written so that they can be evaluated. -/

namespace Sys2Proof.Machine

theorem maxFrame_eq : Config.maxFrame = 375 := by decide

theorem maxFrame_le_bufCap : Config.maxFrame ≤ Config.bufCap := Nat.le_add_right _ _

/-- `BUF_CAP` fits the register LEN (rule R29). -/
theorem bufCap_le : Config.bufCap ≤ 65535 := by
  have h := Config.bufExtra.isLt
  unfold Config.bufCap
  rw [maxFrame_eq]
  omega

@[simp] theorem indexExists_iff (i : Nat) : Config.indexExists i = true ↔ i < Config.bufCap := by
  have h := maxFrame_le_bufCap
  simp only [Config.indexExists, Bool.or_eq_true, decide_eq_true_eq]
  omega

@[simp] theorem lengthFits_iff (n : Nat) : Config.lengthFits n = true ↔ n ≤ Config.bufCap := by
  have h := maxFrame_le_bufCap
  simp only [Config.lengthFits, Bool.or_eq_true, decide_eq_true_eq]
  omega

/-- A sequence of at most MAXFRAME bytes has room under every `BUF_CAP`. -/
theorem le_bufCap_of_le_maxFrame {n : Nat} (h : n ≤ 375) : n ≤ Config.bufCap :=
  le_trans (maxFrame_eq ▸ h) maxFrame_le_bufCap

end Sys2Proof.Machine
end

