-- ==== Sys2Proof/Laws/Flags.lean ====
section
/-! SUPPORT. What setting a bit of STATUS does to each bit. -/

namespace Sys2Proof.Machine

theorem getLsbD_bitMask : ∀ k < 8, ∀ j < 8, (BitVec.ofNat 8 (2 ^ k)).getLsbD j = decide (j = k) := by decide

/-- The bit written holds the value, every other bit is as it was (rule R26). -/
theorem getLsbD_statusWithBit (status : Byte) (k : Nat) (b : Bool) (hk : k < 8) (j : Nat) :
    (statusWithBit status k b).getLsbD j = if j = k then b else status.getLsbD j := by
  by_cases hj : j < 8
  · have hm := getLsbD_bitMask k hk j hj
    unfold statusWithBit
    cases b
    · rw [if_neg (by decide), BitVec.getLsbD_and, BitVec.getLsbD_not, hm]
      by_cases hjk : j = k <;> simp [hjk, hj]
    · rw [if_pos rfl, BitVec.getLsbD_or, hm]
      by_cases hjk : j = k <;> simp [hjk]
  · have hjk : j ≠ k := by omega
    rw [if_neg hjk, BitVec.getLsbD_of_ge _ _ (by omega), BitVec.getLsbD_of_ge _ _ (by omega)]

@[simp] theorem matchFlag_setMatch (s : State) (b : Bool) : (s.setMatch b).matchFlag = b :=
  getLsbD_statusWithBit s.status matchBit b (by decide) matchBit

@[simp] theorem degenFlag_setDegen (s : State) (b : Bool) : (s.setDegen b).degenFlag = b :=
  getLsbD_statusWithBit s.status degenBit b (by decide) degenBit

@[simp] theorem illFlag_setIll (s : State) : s.setIll.illFlag = true :=
  getLsbD_statusWithBit s.status illBit true (by decide) illBit

/-- The reserved bits of STATUS stay 0 (rule R26). -/
theorem statusWithBit_lt (status : Byte) (k : Nat) (b : Bool) (hk : k < 3) (h : status.toNat < 8) :
    (statusWithBit status k b).toNat < 8 := by
  have hb : ∀ st : Byte, st.toNat < 8 → ∀ k < 3, ∀ b : Bool, (statusWithBit st k b).toNat < 8 := by
    intro st hst
    have hlt : st = BitVec.ofNat 8 st.toNat := by simp
    rw [hlt]
    generalize st.toNat = n at hst
    clear hlt
    interval_cases n <;> decide
  exact hb status h k hk b

end Sys2Proof.Machine
end

