-- ==== Sys2Proof/Laws/Number.lean ====
section
/-! SUPPORT. The members of the machine's `NUM`, and the parts of binary32 arithmetic the rounding rests on. -/

namespace Sys2Proof.Machine

@[simp] theorem num_finite (v : Scalar) : num.finite v = b32Finite v := rfl
@[simp] theorem num_val (v : Scalar) : num.val v = b32Val v := rfl
@[simp] theorem num_neg (v : Scalar) : num.neg v = b32Neg v := rfl
@[simp] theorem num_zero : num.zero = b32Zero := rfl
@[simp] theorem num_one : num.one = b32One := rfl
@[simp] theorem num_half : num.half = b32Half := rfl
@[simp] theorem num_two : num.two = b32Two := rfl
@[simp] theorem num_c180 : num.c180 = b32C180 := rfl
@[simp] theorem num_pi : num.pi = numPi := rfl
@[simp] theorem num_add (a b : Scalar) : num.add a b = b32Add a b := rfl
@[simp] theorem num_sub (a b : Scalar) : num.sub a b = b32Sub a b := rfl
@[simp] theorem num_mul (a b : Scalar) : num.mul a b = b32Mul a b := rfl
@[simp] theorem num_div (a b : Scalar) : num.div a b = b32Div a b := rfl
@[simp] theorem num_negate (a : Scalar) : num.negate a = b32Negate a := rfl
@[simp] theorem num_sqrt (a : Scalar) : num.sqrt a = b32Sqrt a := rfl
@[simp] theorem num_asin (a : Scalar) : num.asin a = numAsin a := rfl
@[simp] theorem num_isZero (a : Scalar) : num.isZero a = b32IsZero a := rfl
@[simp] theorem num_lt (a b : Scalar) : num.lt a b = b32Lt a b := rfl
@[simp] theorem num_ofDec (neg : Bool) (r : Rat) : num.ofDec neg r = numOfDec neg r := rfl

/-- Rounding half to even gives the quotient or, of a division with a remainder, the next integer. -/
theorem roundHalfEven_choice (x : Nat) {y : Nat} (hy : 0 < y) :
    ∃ up : Bool, roundHalfEven x y = x / y + (decide (x % y ≠ 0) && up).toNat := by
  unfold roundHalfEven
  dsimp only
  split
  · have hne : decide (x % y ≠ 0) = true := decide_eq_true (by omega)
    exact ⟨true, by rw [hne]; rfl⟩
  · exact ⟨false, by rw [Bool.and_false]; rfl⟩

/-- A place or the next one, tested below the bound at once or case by case. -/
theorem dif_place (neg goUp : Bool) (below : Nat) :
    (if h : below + goUp.toNat < 0x7F800000 then some (Scalar.fin neg ⟨below + goUp.toNat, h⟩) else none) =
      if h : below + 1 < 0x7F800000 then
        some (.fin neg (if goUp then ⟨below + 1, h⟩ else ⟨below, Nat.lt_of_succ_lt h⟩))
      else if h : below < 0x7F800000 ∧ goUp = false then some (.fin neg ⟨below, h.1⟩) else none := by
  by_cases h : below + 1 < 0x7F800000
  · cases goUp <;> simp [h, Nat.lt_of_succ_lt h]
  · cases goUp <;> simp [h]

/-- The conversion rule R152 states for binary32 is, at each numeral, the model's under one of the two choices
that its configuration makes there. -/
theorem b32OfDec_eq_b32DecRound (neg : Bool) (r : Rat) : ∃ up, b32OfDec neg r = b32DecRound up neg r := by
  have hpos : 0 < r.den * 2 ^ (Nat.log2 (r.num.natAbs * b32UnitsPerOne / r.den) - 23) :=
    Nat.mul_pos r.den_pos (Nat.two_pow_pos _)
  obtain ⟨up, hround⟩ := roundHalfEven_choice (r.num.natAbs * b32UnitsPerOne) hpos
  refine ⟨up, ?_⟩
  simp only [b32OfDec, b32RoundCode, b32DecRound, hround, ← Nat.add_assoc]
  exact dif_place neg _ _

theorem fallback_asin90 : asin90 (.fin false 0x40490FDB) (.fin false 0x3FC90FDB) (.fin true 0x3FC90FDB) = true := by
  decide +kernel

/-- The machine's pi and arcsine meet P-ASIN90 (rule R8), whatever the open values are. -/
theorem num_asin90 : asin90 numPi (numAsin b32One) (numAsin (b32Negate b32One)) = true := by
  unfold numPi numAsin
  by_cases h : openLawful = true
  · rw [if_pos h, if_pos h, if_pos h]
    exact h
  · rw [if_neg h, if_neg h, if_neg h, if_pos rfl, if_neg (by decide), if_pos rfl]
    exact fallback_asin90

/-- A magnitude is below the next power of two of its exponent: the significand of a place with exponent field
`e` at least 1 has 24 bits. -/
theorem b32Units_of_normal {code : Nat} (h : 2 ^ 23 ≤ code) :
    b32Units code = (2 ^ 23 + code % 2 ^ 23) * 2 ^ (code / 2 ^ 23 - 1) := by
  have : code / 2 ^ 23 ≠ 0 := (Nat.div_pos h (by norm_num)).ne'
  exact if_neg this

/-- A subnormal magnitude is its place. -/
theorem b32Units_of_subnormal {code : Nat} (h : code < 2 ^ 23) : b32Units code = code := by
  have h0 : code / 2 ^ 23 = 0 := Nat.div_eq_of_lt h
  exact (if_pos h0).trans (Nat.mod_eq_of_lt h)

theorem b32OfCode_of_lt (neg : Bool) {code : Nat} (h : code < 0x7F800000) :
    b32OfCode neg code = .fin neg ⟨code, h⟩ := dif_pos h

theorem b32OfCode_of_le (neg : Bool) {code : Nat} (h : 0x7F800000 ≤ code) : b32OfCode neg code = .inf neg :=
  dif_neg (by omega)

@[simp] theorem b32Neg_b32OfCode (neg : Bool) (code : Nat) : b32Neg (b32OfCode neg code) = neg := by
  unfold b32OfCode
  split <;> rfl

/-- Rounding half to even is within half a unit, in numerators over `y`. -/
theorem roundHalfEven_near (x : Nat) {y : Nat} (hy : 0 < y) :
    2 * x ≤ 2 * y * roundHalfEven x y + y ∧ 2 * y * roundHalfEven x y ≤ 2 * x + y := by
  have hdiv := Nat.div_add_mod x y
  have hmod := Nat.mod_lt x hy
  unfold roundHalfEven
  generalize x / y = q at *
  generalize x % y = r at *
  subst hdiv
  dsimp only
  split
  · constructor
    · nlinarith
    · rename_i h
      have : y ≤ 2 * r := by omega
      nlinarith
  · rename_i h
    have : 2 * r ≤ y := by omega
    constructor <;> nlinarith

/-- A magnitude is below 2^128, in units. -/
theorem b32Units_lt (c : Fin 0x7F800000) : b32Units c.val < 2 ^ 24 * 2 ^ 253 := by
  have hc := c.isLt
  by_cases h : 2 ^ 23 ≤ c.val
  · rw [b32Units_of_normal h]
    have hf := Nat.mod_lt c.val (show 0 < 2 ^ 23 by norm_num)
    have hexp : c.val / 2 ^ 23 - 1 ≤ 253 := by omega
    calc (2 ^ 23 + c.val % 2 ^ 23) * 2 ^ (c.val / 2 ^ 23 - 1)
        ≤ (2 ^ 23 + c.val % 2 ^ 23) * 2 ^ 253 := Nat.mul_le_mul_left _ (Nat.pow_le_pow_right (by norm_num) hexp)
      _ < 2 ^ 24 * 2 ^ 253 := by nlinarith
  · rw [b32Units_of_subnormal (by omega)]
    omega

/-- Rounding does not overflow below 2^127. -/
theorem b32RoundCode_lt {x y : Nat} (h : x / y < 2 ^ 24 * 2 ^ 252) : b32RoundCode x y < 0x7F800000 := by
  unfold b32RoundCode
  dsimp only
  have hlog : Nat.log2 (x / y) ≤ 275 := by
    by_contra hgt
    have hpow : 2 ^ 24 * 2 ^ 252 ≤ 2 ^ Nat.log2 (x / y) := by
      obtain ⟨k, hk⟩ : ∃ k, Nat.log2 (x / y) = 24 + (252 + k) := ⟨Nat.log2 (x / y) - 276, by clear h; omega⟩
      rw [hk, pow_add, pow_add]
      exact Nat.mul_le_mul_left _ (Nat.le_mul_of_pos_right _ (Nat.two_pow_pos k))
    have h0 : x / y ≠ 0 := fun h0 => hgt (by rw [h0]; decide)
    exact absurd (hpow.trans (Nat.log2_self_le h0)) h.not_ge
  have hq : x / y < 2 ^ (Nat.log2 (x / y) + 1) := Nat.lt_log2_self
  generalize Nat.log2 (x / y) = l at *
  have hm : x / (y * 2 ^ (l - 23)) < 2 ^ 24 := by
    rw [← Nat.div_div_eq_div_mul, Nat.div_lt_iff_lt_mul (by positivity), ← pow_add]
    exact lt_of_lt_of_le hq (Nat.pow_le_pow_right (by norm_num) (by omega))
  have hr : roundHalfEven x (y * 2 ^ (l - 23)) ≤ 2 ^ 24 := by
    unfold roundHalfEven
    dsimp only
    split <;> omega
  omega

/-- P-ASIN90 leaves no `NUM.pi` that is not finite. -/
theorem numPi_finite : ∃ neg code, numPi = .fin neg code := by
  have h := num_asin90
  generalize numAsin b32One = a at h
  generalize numAsin (b32Negate b32One) = b at h
  unfold asin90 at h
  cases hpi : numPi with
  | fin neg code => exact ⟨neg, code, rfl⟩
  | nan => cases a <;> simp [hpi, b32C180, b32Div, b32Mul, b32Ninety] at h
  | inf neg =>
    cases a <;>
      simp [hpi, b32C180, b32Div, b32Mul, b32Ninety, b32OfUnits, b32RoundCode, b32Units, roundHalfEven, b32OfCode] at h

/-- D2R is finite. -/
theorem degToRad_finite : ∃ neg code, degToRad num = .fin neg code := by
  obtain ⟨neg, code, h⟩ := numPi_finite
  have hu := b32Units_lt code
  have hlt : b32RoundCode (b32Units code.val * b32UnitsPerOne) (b32Units 0x43340000) < 0x7F800000 := by
    refine b32RoundCode_lt ?_
    have h180 : b32Units 0x43340000 = 180 * b32UnitsPerOne := by decide +kernel
    rw [h180, Nat.mul_comm 180, Nat.mul_comm, Nat.mul_div_mul_left _ _ (by unfold b32UnitsPerOne; positivity)]
    omega
  refine ⟨neg, ⟨_, hlt⟩, ?_⟩
  simp only [degToRad, num_pi, num_c180, num_div, h, b32C180, b32Div]
  rw [if_neg (by decide)]
  exact (b32OfCode_of_lt _ hlt).trans (by simp)

/-- A zero rate is zero in radians (P-ZERO), with the sign of D2R. -/
theorem deg2rad_zero : ∃ neg, deg2rad num b32Zero = .fin neg 0 := by
  obtain ⟨neg, code, h⟩ := degToRad_finite
  refine ⟨neg, ?_⟩
  simp only [deg2rad, h, num_mul, b32Zero, b32Mul, b32OfUnits]
  have h0 : b32Units (0 : Fin 0x7F800000).val * b32Units code.val = 0 := by
    rw [show b32Units (0 : Fin 0x7F800000).val = 0 from rfl, Nat.zero_mul]
  rw [h0, show b32RoundCode 0 b32UnitsPerOne = 0 by decide +kernel]
  cases neg <;> rfl

end Sys2Proof.Machine
end

