-- ==== Sys2Proof/Laws/Ops.lean ====
section
/-! SUPPORT. What each shared operation can do, said once: going on, registers, the frame buffer, `BUF[0..LEN)`. -/

namespace Sys2Proof.Machine

/-! ### Going on with a value -/

@[simp] theorem andThen_next {α β : Type} (a : α) (f : α → Host.Outcome β Fault Refusal) :
    andThen (.next a) f = f a := rfl

@[simp] theorem andThen_fault {α β : Type} (e : Fault) (f : α → Host.Outcome β Fault Refusal) :
    andThen (.fault e) f = .fault e := rfl

@[simp] theorem andThen_refused {α β : Type} (r : Refusal) (f : α → Host.Outcome β Fault Refusal) :
    andThen (.refused r) f = .refused r := rfl

theorem andThen_eq_next {α β : Type} {o : Host.Outcome α Fault Refusal} {f : α → Host.Outcome β Fault Refusal}
    {b : β} : andThen o f = .next b ↔ ∃ a, o = .next a ∧ f a = .next b := by
  cases o <;> simp [andThen]

theorem andThen_eq_fault {α β : Type} {o : Host.Outcome α Fault Refusal} {f : α → Host.Outcome β Fault Refusal}
    {e : Fault} : andThen o f = .fault e ↔ o = .fault e ∨ ∃ a, o = .next a ∧ f a = .fault e := by
  cases o <;> simp [andThen]

theorem andThen_eq_refused {α β : Type} {o : Host.Outcome α Fault Refusal}
    {f : α → Host.Outcome β Fault Refusal} {r : Refusal} :
    andThen o f = .refused r ↔ o = .refused r ∨ ∃ a, o = .next a ∧ f a = .refused r := by
  cases o <;> simp [andThen]

/-! ### Scalar registers -/

theorem SReg_number_injective : Function.Injective SReg.number := by
  intro a b
  cases a <;> cases b <;> decide

/-- The register of a number is the register that has it (rule R74). -/
theorem SReg_ofNumber_eq_some {n : Nat} {r : SReg} : SReg.ofNumber n = some r ↔ r.number.val = n := by
  constructor
  · intro h
    have hn : n < 33 := by
      have := (List.getElem?_eq_some_iff.mp h).1
      simpa [SReg.all] using this
    interval_cases n <;> (injection h with h; subst h; rfl)
  · rintro rfl
    cases r <;> rfl

@[simp] theorem scalar_setScalar (s : State) (r r' : SReg) (v : Scalar) :
    (s.setScalar r v).scalar r' = if r' = r then v else s.scalar r' := by
  by_cases h : r' = r
  · subst h
    simp [State.scalar, State.setScalar, State.markWritten, Vector.get_eq_getElem]
  · have hn : r.number.val ≠ r'.number.val := fun e => h (SReg_number_injective (Fin.ext e.symm))
    simp [State.scalar, State.setScalar, State.markWritten, Vector.get_eq_getElem, h, hn]

/-- Writing several registers, the last pair first: what a register holds afterwards. -/
theorem scalar_setScalars_append (s : State) (ws : List (SReg × Scalar)) (w : SReg × Scalar) (r : SReg) :
    (s.setScalars (ws ++ [w])).scalar r = if r = w.1 then w.2 else (s.setScalars ws).scalar r := by
  simp [State.setScalars, List.foldl_append]

@[simp] theorem setScalars_nil (s : State) : s.setScalars [] = s := rfl

@[simp] theorem setScalars_cons (s : State) (w : SReg × Scalar) (ws : List (SReg × Scalar)) :
    s.setScalars (w :: ws) = (s.setScalar w.1 w.2).setScalars ws := rfl

/-- A register that is none of those written keeps its value. -/
theorem scalar_setScalars_of_notMem (s : State) (ws : List (SReg × Scalar)) (r : SReg)
    (h : r ∉ ws.map Prod.fst) : (s.setScalars ws).scalar r = s.scalar r := by
  induction ws generalizing s with
  | nil => rfl
  | cons w ws ih =>
    simp only [List.map_cons, List.mem_cons, not_or] at h
    rw [setScalars_cons, ih _ h.2, scalar_setScalar, if_neg h.1]

/-- Writing scalar registers changes the register file, and what has been written, alone. -/
theorem setScalars_frame (s : State) (ws : List (SReg × Scalar)) :
    { s.setScalars ws with scalars := s.scalars, written := s.written } = s := by
  induction ws generalizing s with
  | nil => rfl
  | cons w ws ih =>
    have h := ih (s.setScalar w.1 w.2)
    rw [setScalars_cons]
    exact congrArg (fun t : State => { t with scalars := s.scalars, written := s.written }) h

/-! ### Which registers have been written -/

theorem CReg_number_injective : Function.Injective CReg.number := by
  intro a b
  cases a <;> cases b <;> decide

theorem Reg_place_injective : Function.Injective Reg.place := by
  intro a b h
  have hv := congrArg Fin.val h
  cases a with
  | scalar a =>
    cases b with
    | scalar b => exact congrArg _ (SReg_number_injective (Fin.ext hv))
    | control b =>
      simp only [Reg.place] at hv
      omega
  | control a =>
    cases b with
    | scalar b =>
      simp only [Reg.place] at hv
      omega
    | control b =>
      simp only [Reg.place] at hv
      exact congrArg _ (CReg_number_injective (Fin.ext (by omega)))

@[simp] theorem isWritten_markWritten (s : State) (r r' : Reg) :
    (s.markWritten r).isWritten r' = (decide (r' = r) || s.isWritten r') := by
  by_cases h : r' = r
  · subst h
    simp [State.isWritten, State.markWritten, Vector.get_eq_getElem]
  · have hn : r.place.val ≠ r'.place.val := fun e => h (Reg_place_injective (Fin.ext e.symm))
    simp [State.isWritten, State.markWritten, Vector.get_eq_getElem, h, hn]

@[simp] theorem isWritten_setScalar (s : State) (r : SReg) (v : Scalar) (r' : Reg) :
    (s.setScalar r v).isWritten r' = (decide (r' = .scalar r) || s.isWritten r') :=
  isWritten_markWritten _ _ _

theorem isWritten_markAll (s : State) (rs : List Reg) (r : Reg) :
    (s.markAll rs).isWritten r = (decide (r ∈ rs) || s.isWritten r) := by
  induction rs generalizing s with
  | nil => simp [State.markAll]
  | cons r' rs ih =>
    have h : (s.markAll (r' :: rs)).isWritten r = ((s.markWritten r').markAll rs).isWritten r := rfl
    rw [h, ih, isWritten_markWritten]
    by_cases h1 : r = r' <;> by_cases h2 : r ∈ rs <;> simp [h1, h2]

/-- Marking registers as written changes nothing else. -/
theorem markAll_frame (s : State) (rs : List Reg) : { s.markAll rs with written := s.written } = s := by
  induction rs generalizing s with
  | nil => rfl
  | cons r rs ih => exact congrArg (fun t : State => { t with written := s.written }) (ih (s.markWritten r))

/-- The marks after marking registers depend on the marks before and on nothing else. -/
theorem markAll_eq (s : State) (rs : List Reg) : s.markAll rs =
    { s with written := rs.foldl (fun v r => v.set r.place.val true r.place.isLt) s.written } := by
  induction rs generalizing s with
  | nil => rfl
  | cons r rs ih => exact ih (s.markWritten r)

theorem isWritten_setScalars (s : State) (ws : List (SReg × Scalar)) (r : Reg) :
    (s.setScalars ws).isWritten r = (decide (r ∈ ws.map fun w => Reg.scalar w.1) || s.isWritten r) := by
  induction ws generalizing s with
  | nil => simp
  | cons w ws ih =>
    rw [setScalars_cons, ih, isWritten_setScalar]
    by_cases h1 : r = .scalar w.1 <;> by_cases h2 : r ∈ ws.map (fun w => Reg.scalar w.1) <;>
      simp [h1, h2, -List.mem_map]

/-- Going on exactly where all these registers have been written. -/
theorem requireWritten_eq_next {s : State} {rs : List Reg} : s.requireWritten rs = .next () ↔ s.writtenAll rs := by
  unfold State.requireWritten State.writtenAll
  cases h : rs.find? fun r => !s.isWritten r with
  | none => simpa using List.find?_eq_none.mp h
  | some r =>
    have hm := List.mem_of_find?_eq_some h
    have hr := List.find?_some h
    simp only [reduceCtorEq, false_iff]
    intro hall
    simp [hall r hm] at hr

/-- A command that needs these registers answers with a next state only where all have been written. -/
theorem andThen_requireWritten {β : Type} {s : State} {rs : List Reg} {f : Unit → Host.Outcome β Fault Refusal}
    {b : β} : andThen (s.requireWritten rs) f = .next b ↔ s.writtenAll rs ∧ f () = .next b := by
  rw [andThen_eq_next]
  exact ⟨fun ⟨_, h, hf⟩ => ⟨requireWritten_eq_next.mp h, hf⟩, fun ⟨h, hf⟩ => ⟨(), requireWritten_eq_next.mpr h, hf⟩⟩

/-- Refused at one of these registers that has not been written, wherever there is one. -/
theorem requireWritten_refused {s : State} {rs : List Reg} {r : Reg} (hm : r ∈ rs) (hr : s.isWritten r = false) :
    ∃ r' ∈ rs, s.isWritten r' = false ∧ s.requireWritten rs = .refused (.unwrittenRegister r') := by
  unfold State.requireWritten
  cases h : rs.find? fun r => !s.isWritten r with
  | none =>
    have := List.find?_eq_none.mp h r hm
    simp [hr] at this
  | some r' => exact ⟨r', List.mem_of_find?_eq_some h, by simpa using List.find?_some h, rfl⟩

theorem requireWritten_ne_fault (s : State) (rs : List Reg) (f : Fault) : s.requireWritten rs ≠ .fault f := by
  unfold State.requireWritten
  split <;> simp

/-! ### The frame buffer -/

/-- Reading after writing one byte (rule R59). -/
@[simp] theorem memRead_memWrite (m : Memory) (i j : Nat) (b : Byte) :
    memRead (memWrite m i b) j = if j = i then some b else memRead m j := by
  induction m with
  | nil => simp [memWrite, memRead, eq_comm]
  | cons c m ih =>
    obtain ⟨a, d⟩ := c
    simp only [memWrite]
    split
    · by_cases h : i = j
      · simp [memRead, h]
      · simp [memRead, h, Ne.symm h]
    · split
      · rename_i _ h
        subst h
        by_cases h : i = j
        · simp [memRead, h]
        · simp [memRead, h, Ne.symm h]
      · simp only [memRead, ih]
        by_cases h : a = j
        · subst h
          rename_i _ hne
          simp [Ne.symm hne]
        · simp [h]

/-- The indices written after writing one byte. -/
theorem mem_indices_memWrite (m : Memory) (i k : Nat) (b : Byte) (h : k ∈ (memWrite m i b).map Prod.fst) :
    k = i ∨ k ∈ m.map Prod.fst := by
  induction m with
  | nil => simpa [memWrite] using h
  | cons c m ih =>
    obtain ⟨a, d⟩ := c
    simp only [memWrite] at h
    split at h
    · simpa using h
    · split at h
      · simp only [List.map_cons, List.mem_cons] at h ⊢
        tauto
      · simp only [List.map_cons, List.mem_cons] at h ⊢
        rcases h with h | h
        · exact .inr (.inl h)
        · exact (ih h).imp id .inr

/-- Writing a byte of an index that exists keeps the canonical form. -/
theorem memWrite_wf (m : Memory) (i : Nat) (b : Byte) (hm : Memory.wf m) (hi : Config.indexExists i = true) :
    Memory.wf (memWrite m i b) := by
  obtain ⟨hrise, hex⟩ := hm
  refine ⟨?_, fun k hk => ?_⟩
  · clear hex
    induction m with
    | nil => simp [memWrite]
    | cons c m ih =>
      obtain ⟨a, d⟩ := c
      simp only [List.map_cons, List.pairwise_cons] at hrise
      simp only [memWrite]
      split
      · rename_i hlt
        simp only [List.map_cons, List.pairwise_cons, List.mem_cons]
        refine ⟨?_, hrise.1, hrise.2⟩
        rintro k (rfl | hk)
        · exact hlt
        · exact lt_trans hlt (hrise.1 k hk)
      · split
        · rename_i _ heq
          subst heq
          simpa using hrise
        · simp only [List.map_cons, List.pairwise_cons]
          refine ⟨fun k hk => ?_, ih hrise.2⟩
          rcases mem_indices_memWrite m i k b hk with rfl | hk
          · omega
          · exact hrise.1 k hk
  · rcases mem_indices_memWrite m i k b hk with rfl | hk
    · exact hi
    · exact hex k hk

/-- Reading after writing a byte sequence. -/
theorem memRead_memWriteSeq (m : Memory) (i j : Nat) (bs : Bytes) :
    memRead (memWriteSeq m i bs) j = if i ≤ j ∧ j < i + bs.length then bs[j - i]? else memRead m j := by
  induction bs generalizing m i with
  | nil =>
    simp [memWriteSeq]
  | cons b bs ih =>
    simp only [memWriteSeq, ih, memRead_memWrite, List.length_cons]
    by_cases h : j = i
    · subst h
      simp
    · by_cases hj : i + 1 ≤ j ∧ j < i + 1 + bs.length
      · have h2 : i ≤ j ∧ j < i + (bs.length + 1) := by omega
        have h3 : j - i = (j - (i + 1)) + 1 := by omega
        rw [if_pos hj, if_pos h2, h3, List.getElem?_cons_succ]
      · have h2 : ¬(i ≤ j ∧ j < i + (bs.length + 1)) := by omega
        rw [if_neg hj, if_neg h, if_neg h2]

/-- Writing a byte sequence that has room keeps the canonical form. -/
theorem memWriteSeq_wf (m : Memory) (i : Nat) (bs : Bytes) (hm : Memory.wf m)
    (hi : i + bs.length ≤ Config.bufCap) : Memory.wf (memWriteSeq m i bs) := by
  induction bs generalizing m i with
  | nil => exact hm
  | cons b bs ih =>
    simp only [List.length_cons] at hi
    exact ih _ _ (memWrite_wf m i b hm ((indexExists_iff i).mpr (by omega))) (by omega)

/-- The buffer after reset is in its canonical form. -/
theorem reset_buf_wf : Memory.wf State.reset.buf := by
  simp [State.reset, Memory.wf]

/-- Reading a byte sequence answers with exactly the bytes written there. -/
theorem memReadSeq_eq_next {m : Memory} {i n : Nat} {bs : Bytes} :
    memReadSeq m i n = .next bs ↔ bs.length = n ∧ ∀ k (h : k < bs.length), memRead m (i + k) = some bs[k] := by
  induction n generalizing i bs with
  | zero =>
    constructor
    · intro h
      injection h with h
      subst h
      simp
    · rintro ⟨h, -⟩
      rw [List.length_eq_zero_iff.mp h]
      rfl
  | succ n ih =>
    simp only [memReadSeq]
    constructor
    · intro h
      split at h
      · cases h
      · rename_i b hb
        obtain ⟨cs, hcs, h⟩ := andThen_eq_next.mp h
        injection h with h
        subst h
        obtain ⟨hl, hk⟩ := ih.mp hcs
        refine ⟨by simp [hl], fun k hk' => ?_⟩
        cases k with
        | zero => simpa using hb
        | succ k =>
          have := hk k (by simpa using hk')
          rw [show i + (k + 1) = i + 1 + k by omega]
          simpa using this
    · rintro ⟨hl, hk⟩
      cases bs with
      | nil => simp at hl
      | cons b cs =>
        have h0 := hk 0 (by simp)
        simp only [Nat.add_zero, List.getElem_cons_zero] at h0
        rw [h0]
        refine andThen_eq_next.mpr ⟨cs, ih.mpr ⟨by simpa using hl, fun k h => ?_⟩, rfl⟩
        have := hk (k + 1) (by simpa using h)
        rw [show i + 1 + k = i + (k + 1) by omega]
        simpa using this

/-- Reading a byte sequence never faults. -/
theorem memReadSeq_ne_fault (m : Memory) (i n : Nat) (f : Fault) : memReadSeq m i n ≠ .fault f := by
  induction n generalizing i with
  | zero => simp [memReadSeq]
  | succ n ih =>
    simp only [memReadSeq]
    split
    · simp
    · intro h
      rcases andThen_eq_fault.mp h with h | ⟨_, _, h⟩
      · exact ih _ h
      · cases h

/-- Reading a byte sequence is refused at its first byte that nothing has written. -/
theorem memReadSeq_refused {m : Memory} {i n k : Nat} (hk : k < n) (hnone : memRead m (i + k) = none)
    (hsome : ∀ j, j < k → memRead m (i + j) ≠ none) : memReadSeq m i n = .refused (.unwrittenByte (i + k)) := by
  induction n generalizing i k with
  | zero => omega
  | succ n ih =>
    simp only [memReadSeq]
    cases k with
    | zero =>
      rw [Nat.add_zero] at hnone
      rw [hnone]
      rfl
    | succ k =>
      have h0 := hsome 0 (by omega)
      rw [Nat.add_zero] at h0
      obtain ⟨b, hb⟩ := Option.ne_none_iff_exists'.mp h0
      rw [hb]
      have h1 : memRead m (i + 1 + k) = none := by rw [← hnone]; congr 1; omega
      have h2 : ∀ j, j < k → memRead m (i + 1 + j) ≠ none := fun j hj => by
        have := hsome (j + 1) (by omega)
        rwa [show i + 1 + j = i + (j + 1) by omega]
      rw [ih (by omega) h1 h2, show i + 1 + k = i + (k + 1) by omega]
      rfl

/-- `BUF[0..LEN)` is read exactly where it is held. -/
theorem message_eq_next {s : State} {bytes : Bytes} : s.message = .next bytes ↔ s.holds bytes := by
  unfold State.message State.holds
  split
  · rename_i h
    rw [lengthFits_iff] at h
    rw [memReadSeq_eq_next]
    constructor
    · rintro ⟨hl, hk⟩
      exact ⟨hl.symm, hl ▸ h, fun i hi => by simpa using hk i hi⟩
    · rintro ⟨hl, -, hk⟩
      exact ⟨hl.symm, fun i hi => by simpa using hk i hi⟩
  · rename_i h
    rw [lengthFits_iff] at h
    constructor
    · intro h'
      cases h'
    · rintro ⟨hl, hc, -⟩
      omega

/-- `BUF[0..LEN)` faults exactly where LEN exceeds `BUF_CAP`. -/
theorem message_eq_fault {s : State} {f : Fault} :
    s.message = .fault f ↔ Config.bufCap < s.len.toNat ∧ f = .noSuchIndex s.len.toNat := by
  unfold State.message
  split
  · rename_i h
    rw [lengthFits_iff] at h
    constructor
    · intro h'
      exact absurd h' (memReadSeq_ne_fault _ _ _ _)
    · rintro ⟨h', -⟩
      omega
  · rename_i h
    rw [lengthFits_iff] at h
    constructor
    · intro h'
      injection h' with h'
      exact ⟨by omega, h'.symm⟩
    · rintro ⟨-, rfl⟩
      rfl

/-- Storing a frame: it answers exactly when the frame has room, with the bytes from index 0 and LEN. -/
theorem putFrame_eq_next {s t : State} {frame : Bytes} : s.putFrame frame = .next t ↔
    frame.length ≤ Config.bufCap ∧
      t = { s with buf := memWriteSeq s.buf 0 frame, len := BitVec.ofNat 16 frame.length } := by
  unfold State.putFrame
  split <;> rename_i h <;> rw [lengthFits_iff] at h
  · simp [h, eq_comm]
  · simp [h]

/-- Storing a frame never faults. -/
theorem putFrame_ne_fault (s : State) (frame : Bytes) (f : Fault) : s.putFrame frame ≠ .fault f := by
  unfold State.putFrame
  split <;> simp

end Sys2Proof.Machine
end

