-- ==== Sys2Proof/Laws/PerInstr.lean ====
section
/-! SUPPORT. One lemma a command: the word of a command is accepted by its row of the opcode table. -/

namespace Sys2Proof.Laws

/-- The row of the command accepts the word of the command (rule R71). -/
abbrev RowAccepts.Statement (i : Instr) : Prop := i.row.accepts (encode i) = true

theorem RowAccepts.csinit : RowAccepts.Statement .csinit := by decide

theorem RowAccepts.csput (byte : Byte) : RowAccepts.Statement (.csput byte) := by
  have h : ∀ b : Byte, RowAccepts.Statement (.csput b) := by decide +kernel
  exact h byte

theorem RowAccepts.xor8 : RowAccepts.Statement .xor8 := by decide

theorem RowAccepts.crc16 : RowAccepts.Statement .crc16 := by decide

theorem RowAccepts.verify (alg : Alg) : RowAccepts.Statement (.verify alg) := by
  cases alg <;> decide

theorem RowAccepts.encL1 : RowAccepts.Statement .encL1 := by decide

theorem RowAccepts.encL2 : RowAccepts.Statement .encL2 := by decide

theorem RowAccepts.dec : RowAccepts.Statement .dec := by decide

theorem RowAccepts.update : RowAccepts.Statement .update := by decide

theorem RowAccepts.euler : RowAccepts.Statement .euler := by decide

end Sys2Proof.Laws
end

