-- ==== Sys2Proof/Laws/State.lean ====
section
/-! SUPPORT. The state record: one lemma for each field an update leaves alone, and for each it writes. -/

namespace Sys2Proof.Machine


/-! ### `setScalar` -/

@[simp] theorem setScalar_status (s : State) (r : SReg) (v : Scalar) : (s.setScalar r v).status = s.status := rfl
@[simp] theorem setScalar_err (s : State) (r : SReg) (v : Scalar) : (s.setScalar r v).err = s.err := rfl
@[simp] theorem setScalar_len (s : State) (r : SReg) (v : Scalar) : (s.setScalar r v).len = s.len := rfl
@[simp] theorem setScalar_tms (s : State) (r : SReg) (v : Scalar) : (s.setScalar r v).tms = s.tms := rfl
@[simp] theorem setScalar_expect (s : State) (r : SReg) (v : Scalar) : (s.setScalar r v).expect = s.expect := rfl
@[simp] theorem setScalar_digest (s : State) (r : SReg) (v : Scalar) : (s.setScalar r v).digest = s.digest := rfl
@[simp] theorem setScalar_xoracc (s : State) (r : SReg) (v : Scalar) : (s.setScalar r v).xoracc = s.xoracc := rfl
@[simp] theorem setScalar_crcacc (s : State) (r : SReg) (v : Scalar) : (s.setScalar r v).crcacc = s.crcacc := rfl
@[simp] theorem setScalar_rkind (s : State) (r : SReg) (v : Scalar) : (s.setScalar r v).rkind = s.rkind := rfl
@[simp] theorem setScalar_rtms (s : State) (r : SReg) (v : Scalar) : (s.setScalar r v).rtms = s.rtms := rfl
@[simp] theorem setScalar_rnf (s : State) (r : SReg) (v : Scalar) : (s.setScalar r v).rnf = s.rnf := rfl
@[simp] theorem setScalar_buf (s : State) (r : SReg) (v : Scalar) : (s.setScalar r v).buf = s.buf := rfl
@[simp] theorem setScalar_pending (s : State) (r : SReg) (v : Scalar) : (s.setScalar r v).pending = s.pending := rfl
@[simp] theorem setScalar_reply (s : State) (r : SReg) (v : Scalar) : (s.setScalar r v).reply = s.reply := rfl
@[simp] theorem setScalar_resetCount (s : State) (r : SReg) (v : Scalar) : (s.setScalar r v).resetCount = s.resetCount := rfl

/-! ### `markWritten` -/

@[simp] theorem markWritten_scalars (s : State) (r : Reg) : (s.markWritten r).scalars = s.scalars := rfl
@[simp] theorem markWritten_status (s : State) (r : Reg) : (s.markWritten r).status = s.status := rfl
@[simp] theorem markWritten_err (s : State) (r : Reg) : (s.markWritten r).err = s.err := rfl
@[simp] theorem markWritten_len (s : State) (r : Reg) : (s.markWritten r).len = s.len := rfl
@[simp] theorem markWritten_tms (s : State) (r : Reg) : (s.markWritten r).tms = s.tms := rfl
@[simp] theorem markWritten_expect (s : State) (r : Reg) : (s.markWritten r).expect = s.expect := rfl
@[simp] theorem markWritten_digest (s : State) (r : Reg) : (s.markWritten r).digest = s.digest := rfl
@[simp] theorem markWritten_xoracc (s : State) (r : Reg) : (s.markWritten r).xoracc = s.xoracc := rfl
@[simp] theorem markWritten_crcacc (s : State) (r : Reg) : (s.markWritten r).crcacc = s.crcacc := rfl
@[simp] theorem markWritten_rkind (s : State) (r : Reg) : (s.markWritten r).rkind = s.rkind := rfl
@[simp] theorem markWritten_rtms (s : State) (r : Reg) : (s.markWritten r).rtms = s.rtms := rfl
@[simp] theorem markWritten_rnf (s : State) (r : Reg) : (s.markWritten r).rnf = s.rnf := rfl
@[simp] theorem markWritten_buf (s : State) (r : Reg) : (s.markWritten r).buf = s.buf := rfl
@[simp] theorem markWritten_pending (s : State) (r : Reg) : (s.markWritten r).pending = s.pending := rfl
@[simp] theorem markWritten_reply (s : State) (r : Reg) : (s.markWritten r).reply = s.reply := rfl
@[simp] theorem markWritten_resetCount (s : State) (r : Reg) : (s.markWritten r).resetCount = s.resetCount := rfl

/-! ### `setDigest` -/

@[simp] theorem setDigest_scalars (s : State) (d : U16) : (s.setDigest d).scalars = s.scalars := rfl
@[simp] theorem setDigest_status (s : State) (d : U16) : (s.setDigest d).status = s.status := rfl
@[simp] theorem setDigest_err (s : State) (d : U16) : (s.setDigest d).err = s.err := rfl
@[simp] theorem setDigest_len (s : State) (d : U16) : (s.setDigest d).len = s.len := rfl
@[simp] theorem setDigest_tms (s : State) (d : U16) : (s.setDigest d).tms = s.tms := rfl
@[simp] theorem setDigest_expect (s : State) (d : U16) : (s.setDigest d).expect = s.expect := rfl
@[simp] theorem setDigest_xoracc (s : State) (d : U16) : (s.setDigest d).xoracc = s.xoracc := rfl
@[simp] theorem setDigest_crcacc (s : State) (d : U16) : (s.setDigest d).crcacc = s.crcacc := rfl
@[simp] theorem setDigest_rkind (s : State) (d : U16) : (s.setDigest d).rkind = s.rkind := rfl
@[simp] theorem setDigest_rtms (s : State) (d : U16) : (s.setDigest d).rtms = s.rtms := rfl
@[simp] theorem setDigest_rnf (s : State) (d : U16) : (s.setDigest d).rnf = s.rnf := rfl
@[simp] theorem setDigest_buf (s : State) (d : U16) : (s.setDigest d).buf = s.buf := rfl
@[simp] theorem setDigest_pending (s : State) (d : U16) : (s.setDigest d).pending = s.pending := rfl
@[simp] theorem setDigest_reply (s : State) (d : U16) : (s.setDigest d).reply = s.reply := rfl
@[simp] theorem setDigest_resetCount (s : State) (d : U16) : (s.setDigest d).resetCount = s.resetCount := rfl

@[simp] theorem setDigest_digest (s : State) (d : U16) : (s.setDigest d).digest = d := rfl

/-! ### `setMatch` -/

@[simp] theorem setMatch_scalars (s : State) (b : Bool) : (s.setMatch b).scalars = s.scalars := rfl
@[simp] theorem setMatch_err (s : State) (b : Bool) : (s.setMatch b).err = s.err := rfl
@[simp] theorem setMatch_len (s : State) (b : Bool) : (s.setMatch b).len = s.len := rfl
@[simp] theorem setMatch_tms (s : State) (b : Bool) : (s.setMatch b).tms = s.tms := rfl
@[simp] theorem setMatch_expect (s : State) (b : Bool) : (s.setMatch b).expect = s.expect := rfl
@[simp] theorem setMatch_digest (s : State) (b : Bool) : (s.setMatch b).digest = s.digest := rfl
@[simp] theorem setMatch_xoracc (s : State) (b : Bool) : (s.setMatch b).xoracc = s.xoracc := rfl
@[simp] theorem setMatch_crcacc (s : State) (b : Bool) : (s.setMatch b).crcacc = s.crcacc := rfl
@[simp] theorem setMatch_rkind (s : State) (b : Bool) : (s.setMatch b).rkind = s.rkind := rfl
@[simp] theorem setMatch_rtms (s : State) (b : Bool) : (s.setMatch b).rtms = s.rtms := rfl
@[simp] theorem setMatch_rnf (s : State) (b : Bool) : (s.setMatch b).rnf = s.rnf := rfl
@[simp] theorem setMatch_buf (s : State) (b : Bool) : (s.setMatch b).buf = s.buf := rfl
@[simp] theorem setMatch_written (s : State) (b : Bool) : (s.setMatch b).written = s.written := rfl
@[simp] theorem setMatch_pending (s : State) (b : Bool) : (s.setMatch b).pending = s.pending := rfl
@[simp] theorem setMatch_reply (s : State) (b : Bool) : (s.setMatch b).reply = s.reply := rfl
@[simp] theorem setMatch_resetCount (s : State) (b : Bool) : (s.setMatch b).resetCount = s.resetCount := rfl

/-! ### `setDegen` -/

@[simp] theorem setDegen_scalars (s : State) (b : Bool) : (s.setDegen b).scalars = s.scalars := rfl
@[simp] theorem setDegen_err (s : State) (b : Bool) : (s.setDegen b).err = s.err := rfl
@[simp] theorem setDegen_len (s : State) (b : Bool) : (s.setDegen b).len = s.len := rfl
@[simp] theorem setDegen_tms (s : State) (b : Bool) : (s.setDegen b).tms = s.tms := rfl
@[simp] theorem setDegen_expect (s : State) (b : Bool) : (s.setDegen b).expect = s.expect := rfl
@[simp] theorem setDegen_digest (s : State) (b : Bool) : (s.setDegen b).digest = s.digest := rfl
@[simp] theorem setDegen_xoracc (s : State) (b : Bool) : (s.setDegen b).xoracc = s.xoracc := rfl
@[simp] theorem setDegen_crcacc (s : State) (b : Bool) : (s.setDegen b).crcacc = s.crcacc := rfl
@[simp] theorem setDegen_rkind (s : State) (b : Bool) : (s.setDegen b).rkind = s.rkind := rfl
@[simp] theorem setDegen_rtms (s : State) (b : Bool) : (s.setDegen b).rtms = s.rtms := rfl
@[simp] theorem setDegen_rnf (s : State) (b : Bool) : (s.setDegen b).rnf = s.rnf := rfl
@[simp] theorem setDegen_buf (s : State) (b : Bool) : (s.setDegen b).buf = s.buf := rfl
@[simp] theorem setDegen_written (s : State) (b : Bool) : (s.setDegen b).written = s.written := rfl
@[simp] theorem setDegen_pending (s : State) (b : Bool) : (s.setDegen b).pending = s.pending := rfl
@[simp] theorem setDegen_reply (s : State) (b : Bool) : (s.setDegen b).reply = s.reply := rfl
@[simp] theorem setDegen_resetCount (s : State) (b : Bool) : (s.setDegen b).resetCount = s.resetCount := rfl

/-! ### `setIll` -/

@[simp] theorem setIll_scalars (s : State) : (s.setIll).scalars = s.scalars := rfl
@[simp] theorem setIll_err (s : State) : (s.setIll).err = s.err := rfl
@[simp] theorem setIll_len (s : State) : (s.setIll).len = s.len := rfl
@[simp] theorem setIll_tms (s : State) : (s.setIll).tms = s.tms := rfl
@[simp] theorem setIll_expect (s : State) : (s.setIll).expect = s.expect := rfl
@[simp] theorem setIll_digest (s : State) : (s.setIll).digest = s.digest := rfl
@[simp] theorem setIll_xoracc (s : State) : (s.setIll).xoracc = s.xoracc := rfl
@[simp] theorem setIll_crcacc (s : State) : (s.setIll).crcacc = s.crcacc := rfl
@[simp] theorem setIll_rkind (s : State) : (s.setIll).rkind = s.rkind := rfl
@[simp] theorem setIll_rtms (s : State) : (s.setIll).rtms = s.rtms := rfl
@[simp] theorem setIll_rnf (s : State) : (s.setIll).rnf = s.rnf := rfl
@[simp] theorem setIll_buf (s : State) : (s.setIll).buf = s.buf := rfl
@[simp] theorem setIll_written (s : State) : (s.setIll).written = s.written := rfl
@[simp] theorem setIll_pending (s : State) : (s.setIll).pending = s.pending := rfl
@[simp] theorem setIll_reply (s : State) : (s.setIll).reply = s.reply := rfl
@[simp] theorem setIll_resetCount (s : State) : (s.setIll).resetCount = s.resetCount := rfl

/-! ### `failWith` -/

@[simp] theorem failWith_scalars (s : State) (e : FrameError) : (s.failWith e).scalars = s.scalars := rfl
@[simp] theorem failWith_status (s : State) (e : FrameError) : (s.failWith e).status = s.status := rfl
@[simp] theorem failWith_len (s : State) (e : FrameError) : (s.failWith e).len = s.len := rfl
@[simp] theorem failWith_tms (s : State) (e : FrameError) : (s.failWith e).tms = s.tms := rfl
@[simp] theorem failWith_expect (s : State) (e : FrameError) : (s.failWith e).expect = s.expect := rfl
@[simp] theorem failWith_digest (s : State) (e : FrameError) : (s.failWith e).digest = s.digest := rfl
@[simp] theorem failWith_xoracc (s : State) (e : FrameError) : (s.failWith e).xoracc = s.xoracc := rfl
@[simp] theorem failWith_crcacc (s : State) (e : FrameError) : (s.failWith e).crcacc = s.crcacc := rfl
@[simp] theorem failWith_rkind (s : State) (e : FrameError) : (s.failWith e).rkind = s.rkind := rfl
@[simp] theorem failWith_rtms (s : State) (e : FrameError) : (s.failWith e).rtms = s.rtms := rfl
@[simp] theorem failWith_rnf (s : State) (e : FrameError) : (s.failWith e).rnf = s.rnf := rfl
@[simp] theorem failWith_buf (s : State) (e : FrameError) : (s.failWith e).buf = s.buf := rfl
@[simp] theorem failWith_written (s : State) (e : FrameError) : (s.failWith e).written = s.written := rfl
@[simp] theorem failWith_pending (s : State) (e : FrameError) : (s.failWith e).pending = s.pending := rfl
@[simp] theorem failWith_reply (s : State) (e : FrameError) : (s.failWith e).reply = s.reply := rfl
@[simp] theorem failWith_resetCount (s : State) (e : FrameError) : (s.failWith e).resetCount = s.resetCount := rfl

/-! ### `setQuat` -/

@[simp] theorem setQuat_status (s : State) (q : Quat Scalar) : (s.setQuat q).status = s.status := rfl
@[simp] theorem setQuat_err (s : State) (q : Quat Scalar) : (s.setQuat q).err = s.err := rfl
@[simp] theorem setQuat_len (s : State) (q : Quat Scalar) : (s.setQuat q).len = s.len := rfl
@[simp] theorem setQuat_tms (s : State) (q : Quat Scalar) : (s.setQuat q).tms = s.tms := rfl
@[simp] theorem setQuat_expect (s : State) (q : Quat Scalar) : (s.setQuat q).expect = s.expect := rfl
@[simp] theorem setQuat_digest (s : State) (q : Quat Scalar) : (s.setQuat q).digest = s.digest := rfl
@[simp] theorem setQuat_xoracc (s : State) (q : Quat Scalar) : (s.setQuat q).xoracc = s.xoracc := rfl
@[simp] theorem setQuat_crcacc (s : State) (q : Quat Scalar) : (s.setQuat q).crcacc = s.crcacc := rfl
@[simp] theorem setQuat_rkind (s : State) (q : Quat Scalar) : (s.setQuat q).rkind = s.rkind := rfl
@[simp] theorem setQuat_rtms (s : State) (q : Quat Scalar) : (s.setQuat q).rtms = s.rtms := rfl
@[simp] theorem setQuat_rnf (s : State) (q : Quat Scalar) : (s.setQuat q).rnf = s.rnf := rfl
@[simp] theorem setQuat_buf (s : State) (q : Quat Scalar) : (s.setQuat q).buf = s.buf := rfl
@[simp] theorem setQuat_pending (s : State) (q : Quat Scalar) : (s.setQuat q).pending = s.pending := rfl
@[simp] theorem setQuat_reply (s : State) (q : Quat Scalar) : (s.setQuat q).reply = s.reply := rfl
@[simp] theorem setQuat_resetCount (s : State) (q : Quat Scalar) : (s.setQuat q).resetCount = s.resetCount := rfl

/-! ### `setAngles` -/

@[simp] theorem setAngles_status (s : State) (a : Angles Scalar) : (s.setAngles a).status = s.status := rfl
@[simp] theorem setAngles_err (s : State) (a : Angles Scalar) : (s.setAngles a).err = s.err := rfl
@[simp] theorem setAngles_len (s : State) (a : Angles Scalar) : (s.setAngles a).len = s.len := rfl
@[simp] theorem setAngles_tms (s : State) (a : Angles Scalar) : (s.setAngles a).tms = s.tms := rfl
@[simp] theorem setAngles_expect (s : State) (a : Angles Scalar) : (s.setAngles a).expect = s.expect := rfl
@[simp] theorem setAngles_digest (s : State) (a : Angles Scalar) : (s.setAngles a).digest = s.digest := rfl
@[simp] theorem setAngles_xoracc (s : State) (a : Angles Scalar) : (s.setAngles a).xoracc = s.xoracc := rfl
@[simp] theorem setAngles_crcacc (s : State) (a : Angles Scalar) : (s.setAngles a).crcacc = s.crcacc := rfl
@[simp] theorem setAngles_rkind (s : State) (a : Angles Scalar) : (s.setAngles a).rkind = s.rkind := rfl
@[simp] theorem setAngles_rtms (s : State) (a : Angles Scalar) : (s.setAngles a).rtms = s.rtms := rfl
@[simp] theorem setAngles_rnf (s : State) (a : Angles Scalar) : (s.setAngles a).rnf = s.rnf := rfl
@[simp] theorem setAngles_buf (s : State) (a : Angles Scalar) : (s.setAngles a).buf = s.buf := rfl
@[simp] theorem setAngles_pending (s : State) (a : Angles Scalar) : (s.setAngles a).pending = s.pending := rfl
@[simp] theorem setAngles_reply (s : State) (a : Angles Scalar) : (s.setAngles a).reply = s.reply := rfl
@[simp] theorem setAngles_resetCount (s : State) (a : Angles Scalar) : (s.setAngles a).resetCount = s.resetCount := rfl

/-! ### `writeByte` -/

@[simp] theorem writeByte_scalars (s : State) (i : Nat) (b : Byte) : (writeByte i b s).scalars = s.scalars := rfl
@[simp] theorem writeByte_status (s : State) (i : Nat) (b : Byte) : (writeByte i b s).status = s.status := rfl
@[simp] theorem writeByte_err (s : State) (i : Nat) (b : Byte) : (writeByte i b s).err = s.err := rfl
@[simp] theorem writeByte_len (s : State) (i : Nat) (b : Byte) : (writeByte i b s).len = s.len := rfl
@[simp] theorem writeByte_tms (s : State) (i : Nat) (b : Byte) : (writeByte i b s).tms = s.tms := rfl
@[simp] theorem writeByte_expect (s : State) (i : Nat) (b : Byte) : (writeByte i b s).expect = s.expect := rfl
@[simp] theorem writeByte_digest (s : State) (i : Nat) (b : Byte) : (writeByte i b s).digest = s.digest := rfl
@[simp] theorem writeByte_xoracc (s : State) (i : Nat) (b : Byte) : (writeByte i b s).xoracc = s.xoracc := rfl
@[simp] theorem writeByte_crcacc (s : State) (i : Nat) (b : Byte) : (writeByte i b s).crcacc = s.crcacc := rfl
@[simp] theorem writeByte_rkind (s : State) (i : Nat) (b : Byte) : (writeByte i b s).rkind = s.rkind := rfl
@[simp] theorem writeByte_rtms (s : State) (i : Nat) (b : Byte) : (writeByte i b s).rtms = s.rtms := rfl
@[simp] theorem writeByte_rnf (s : State) (i : Nat) (b : Byte) : (writeByte i b s).rnf = s.rnf := rfl
@[simp] theorem writeByte_written (s : State) (i : Nat) (b : Byte) : (writeByte i b s).written = s.written := rfl
@[simp] theorem writeByte_pending (s : State) (i : Nat) (b : Byte) : (writeByte i b s).pending = s.pending := rfl
@[simp] theorem writeByte_reply (s : State) (i : Nat) (b : Byte) : (writeByte i b s).reply = s.reply := rfl
@[simp] theorem writeByte_resetCount (s : State) (i : Nat) (b : Byte) : (writeByte i b s).resetCount = s.resetCount := rfl

/-! ### What the updates write -/

@[simp] theorem failWith_err (s : State) (e : FrameError) : (s.failWith e).err = e.code := rfl
@[simp] theorem setMatch_status (s : State) (b : Bool) : (s.setMatch b).status = statusWithBit s.status matchBit b := rfl
@[simp] theorem setDegen_status (s : State) (b : Bool) : (s.setDegen b).status = statusWithBit s.status degenBit b := rfl
@[simp] theorem setIll_status (s : State) : s.setIll.status = statusWithBit s.status illBit true := rfl
@[simp] theorem writeByte_buf (i : Nat) (b : Byte) (s : State) : (writeByte i b s).buf = memWrite s.buf i b := rfl

/-! ### Reading a scalar register past an update of something else -/

@[simp] theorem setMatch_scalar (s : State) (b : Bool) (r : SReg) : (s.setMatch b).scalar r = s.scalar r := rfl
@[simp] theorem setDegen_scalar (s : State) (b : Bool) (r : SReg) : (s.setDegen b).scalar r = s.scalar r := rfl
@[simp] theorem setIll_scalar (s : State) (r : SReg) : (s.setIll).scalar r = s.scalar r := rfl
@[simp] theorem failWith_scalar (s : State) (e : FrameError) (r : SReg) : (s.failWith e).scalar r = s.scalar r := rfl
@[simp] theorem writeByte_scalar (s : State) (i : Nat) (b : Byte) (r : SReg) : (writeByte i b s).scalar r = s.scalar r := rfl

@[simp] theorem markWritten_scalar (s : State) (r : Reg) (r' : SReg) : (s.markWritten r).scalar r' = s.scalar r' := rfl
@[simp] theorem setDigest_scalar (s : State) (d : U16) (r : SReg) : (s.setDigest d).scalar r = s.scalar r := rfl

/-! ### Whether a register has been written, past an update that writes none but STATUS or ERR -/

@[simp] theorem setMatch_isWritten (s : State) (b : Bool) (r : Reg) : (s.setMatch b).isWritten r = s.isWritten r := rfl
@[simp] theorem setDegen_isWritten (s : State) (b : Bool) (r : Reg) : (s.setDegen b).isWritten r = s.isWritten r := rfl
@[simp] theorem setIll_isWritten (s : State) (r : Reg) : s.setIll.isWritten r = s.isWritten r := rfl
@[simp] theorem failWith_isWritten (s : State) (e : FrameError) (r : Reg) : (s.failWith e).isWritten r = s.isWritten r := rfl
@[simp] theorem writeByte_isWritten (s : State) (i : Nat) (b : Byte) (r : Reg) : (writeByte i b s).isWritten r = s.isWritten r := rfl

/-! ### Whether a register has been written, past an update that writes registers -/

@[simp] theorem setDigest_isWritten (s : State) (d : U16) (r : Reg) :
    (s.setDigest d).isWritten r = (decide (r = .control .digest) || s.isWritten r) :=
  isWritten_markWritten _ _ _

@[simp] theorem setQuat_isWritten (s : State) (q : Quat Scalar) (r : Reg) : (s.setQuat q).isWritten r =
    (decide (r ∈ [Reg.scalar .q0, .scalar .q1, .scalar .q2, .scalar .q3]) || s.isWritten r) :=
  isWritten_setScalars _ _ _

@[simp] theorem setAngles_isWritten (s : State) (a : Angles Scalar) (r : Reg) : (s.setAngles a).isWritten r =
    (decide (r ∈ [Reg.scalar .roll, .scalar .pitch, .scalar .yaw]) || s.isWritten r) :=
  isWritten_setScalars _ _ _

/-! ### `setScalars` -/

@[simp] theorem setScalars_status (s : State) (ws : List (SReg × Scalar)) : (s.setScalars ws).status = s.status := by
  rw [← congrArg State.status (setScalars_frame s ws)]
@[simp] theorem setScalars_err (s : State) (ws : List (SReg × Scalar)) : (s.setScalars ws).err = s.err := by
  rw [← congrArg State.err (setScalars_frame s ws)]
@[simp] theorem setScalars_len (s : State) (ws : List (SReg × Scalar)) : (s.setScalars ws).len = s.len := by
  rw [← congrArg State.len (setScalars_frame s ws)]
@[simp] theorem setScalars_tms (s : State) (ws : List (SReg × Scalar)) : (s.setScalars ws).tms = s.tms := by
  rw [← congrArg State.tms (setScalars_frame s ws)]
@[simp] theorem setScalars_expect (s : State) (ws : List (SReg × Scalar)) : (s.setScalars ws).expect = s.expect := by
  rw [← congrArg State.expect (setScalars_frame s ws)]
@[simp] theorem setScalars_digest (s : State) (ws : List (SReg × Scalar)) : (s.setScalars ws).digest = s.digest := by
  rw [← congrArg State.digest (setScalars_frame s ws)]
@[simp] theorem setScalars_xoracc (s : State) (ws : List (SReg × Scalar)) : (s.setScalars ws).xoracc = s.xoracc := by
  rw [← congrArg State.xoracc (setScalars_frame s ws)]
@[simp] theorem setScalars_crcacc (s : State) (ws : List (SReg × Scalar)) : (s.setScalars ws).crcacc = s.crcacc := by
  rw [← congrArg State.crcacc (setScalars_frame s ws)]
@[simp] theorem setScalars_rkind (s : State) (ws : List (SReg × Scalar)) : (s.setScalars ws).rkind = s.rkind := by
  rw [← congrArg State.rkind (setScalars_frame s ws)]
@[simp] theorem setScalars_rtms (s : State) (ws : List (SReg × Scalar)) : (s.setScalars ws).rtms = s.rtms := by
  rw [← congrArg State.rtms (setScalars_frame s ws)]
@[simp] theorem setScalars_rnf (s : State) (ws : List (SReg × Scalar)) : (s.setScalars ws).rnf = s.rnf := by
  rw [← congrArg State.rnf (setScalars_frame s ws)]
@[simp] theorem setScalars_buf (s : State) (ws : List (SReg × Scalar)) : (s.setScalars ws).buf = s.buf := by
  rw [← congrArg State.buf (setScalars_frame s ws)]
@[simp] theorem setScalars_pending (s : State) (ws : List (SReg × Scalar)) : (s.setScalars ws).pending = s.pending := by
  rw [← congrArg State.pending (setScalars_frame s ws)]
@[simp] theorem setScalars_reply (s : State) (ws : List (SReg × Scalar)) : (s.setScalars ws).reply = s.reply := by
  rw [← congrArg State.reply (setScalars_frame s ws)]
@[simp] theorem setScalars_resetCount (s : State) (ws : List (SReg × Scalar)) : (s.setScalars ws).resetCount = s.resetCount := by
  rw [← congrArg State.resetCount (setScalars_frame s ws)]

/-! ### `markAll` -/

@[simp] theorem markAll_scalars (s : State) (rs : List Reg) : (s.markAll rs).scalars = s.scalars := by
  rw [markAll_eq]
@[simp] theorem markAll_status (s : State) (rs : List Reg) : (s.markAll rs).status = s.status := by
  rw [markAll_eq]
@[simp] theorem markAll_err (s : State) (rs : List Reg) : (s.markAll rs).err = s.err := by
  rw [markAll_eq]
@[simp] theorem markAll_len (s : State) (rs : List Reg) : (s.markAll rs).len = s.len := by
  rw [markAll_eq]
@[simp] theorem markAll_tms (s : State) (rs : List Reg) : (s.markAll rs).tms = s.tms := by
  rw [markAll_eq]
@[simp] theorem markAll_expect (s : State) (rs : List Reg) : (s.markAll rs).expect = s.expect := by
  rw [markAll_eq]
@[simp] theorem markAll_digest (s : State) (rs : List Reg) : (s.markAll rs).digest = s.digest := by
  rw [markAll_eq]
@[simp] theorem markAll_xoracc (s : State) (rs : List Reg) : (s.markAll rs).xoracc = s.xoracc := by
  rw [markAll_eq]
@[simp] theorem markAll_crcacc (s : State) (rs : List Reg) : (s.markAll rs).crcacc = s.crcacc := by
  rw [markAll_eq]
@[simp] theorem markAll_rkind (s : State) (rs : List Reg) : (s.markAll rs).rkind = s.rkind := by
  rw [markAll_eq]
@[simp] theorem markAll_rtms (s : State) (rs : List Reg) : (s.markAll rs).rtms = s.rtms := by
  rw [markAll_eq]
@[simp] theorem markAll_rnf (s : State) (rs : List Reg) : (s.markAll rs).rnf = s.rnf := by
  rw [markAll_eq]
@[simp] theorem markAll_buf (s : State) (rs : List Reg) : (s.markAll rs).buf = s.buf := by
  rw [markAll_eq]
@[simp] theorem markAll_pending (s : State) (rs : List Reg) : (s.markAll rs).pending = s.pending := by
  rw [markAll_eq]
@[simp] theorem markAll_reply (s : State) (rs : List Reg) : (s.markAll rs).reply = s.reply := by
  rw [markAll_eq]
@[simp] theorem markAll_resetCount (s : State) (rs : List Reg) : (s.markAll rs).resetCount = s.resetCount := by
  rw [markAll_eq]

/-! ### Whether a register has been written, past the writes of an UPDATE that may be skipped -/

@[simp] theorem setNormAccel_isWritten (s : State) (v : Option (Vec3 Scalar)) (r : Reg) :
    (s.setNormAccel v).isWritten r =
      (decide (v.isSome ∧ r ∈ [Reg.scalar .an0, .scalar .an1, .scalar .an2]) || s.isWritten r) := by
  cases v with
  | none => simp [State.setNormAccel]
  | some v => simpa [State.setNormAccel] using isWritten_setScalars s [(.an0, v.x), (.an1, v.y), (.an2, v.z)] r

@[simp] theorem setNormMag_isWritten (s : State) (v : Option (Vec3 Scalar)) (r : Reg) :
    (s.setNormMag v).isWritten r =
      (decide (v.isSome ∧ r ∈ [Reg.scalar .mn0, .scalar .mn1, .scalar .mn2]) || s.isWritten r) := by
  cases v with
  | none => simp [State.setNormMag]
  | some v => simpa [State.setNormMag] using isWritten_setScalars s [(.mn0, v.x), (.mn1, v.y), (.mn2, v.z)] r

/-! ### `setNormAccel` and `setNormMag` -/

@[simp] theorem setNormAccel_status (s : State) (v : Option (Vec3 Scalar)) : (s.setNormAccel v).status = s.status := by
  cases v <;> rfl
@[simp] theorem setNormAccel_err (s : State) (v : Option (Vec3 Scalar)) : (s.setNormAccel v).err = s.err := by
  cases v <;> rfl
@[simp] theorem setNormAccel_len (s : State) (v : Option (Vec3 Scalar)) : (s.setNormAccel v).len = s.len := by
  cases v <;> rfl
@[simp] theorem setNormAccel_tms (s : State) (v : Option (Vec3 Scalar)) : (s.setNormAccel v).tms = s.tms := by
  cases v <;> rfl
@[simp] theorem setNormAccel_expect (s : State) (v : Option (Vec3 Scalar)) : (s.setNormAccel v).expect = s.expect := by
  cases v <;> rfl
@[simp] theorem setNormAccel_digest (s : State) (v : Option (Vec3 Scalar)) : (s.setNormAccel v).digest = s.digest := by
  cases v <;> rfl
@[simp] theorem setNormAccel_xoracc (s : State) (v : Option (Vec3 Scalar)) : (s.setNormAccel v).xoracc = s.xoracc := by
  cases v <;> rfl
@[simp] theorem setNormAccel_crcacc (s : State) (v : Option (Vec3 Scalar)) : (s.setNormAccel v).crcacc = s.crcacc := by
  cases v <;> rfl
@[simp] theorem setNormAccel_rkind (s : State) (v : Option (Vec3 Scalar)) : (s.setNormAccel v).rkind = s.rkind := by
  cases v <;> rfl
@[simp] theorem setNormAccel_rtms (s : State) (v : Option (Vec3 Scalar)) : (s.setNormAccel v).rtms = s.rtms := by
  cases v <;> rfl
@[simp] theorem setNormAccel_rnf (s : State) (v : Option (Vec3 Scalar)) : (s.setNormAccel v).rnf = s.rnf := by
  cases v <;> rfl
@[simp] theorem setNormAccel_buf (s : State) (v : Option (Vec3 Scalar)) : (s.setNormAccel v).buf = s.buf := by
  cases v <;> rfl
@[simp] theorem setNormAccel_pending (s : State) (v : Option (Vec3 Scalar)) : (s.setNormAccel v).pending = s.pending := by
  cases v <;> rfl
@[simp] theorem setNormAccel_reply (s : State) (v : Option (Vec3 Scalar)) : (s.setNormAccel v).reply = s.reply := by
  cases v <;> rfl
@[simp] theorem setNormAccel_resetCount (s : State) (v : Option (Vec3 Scalar)) : (s.setNormAccel v).resetCount = s.resetCount := by
  cases v <;> rfl
@[simp] theorem setNormMag_status (s : State) (v : Option (Vec3 Scalar)) : (s.setNormMag v).status = s.status := by
  cases v <;> rfl
@[simp] theorem setNormMag_err (s : State) (v : Option (Vec3 Scalar)) : (s.setNormMag v).err = s.err := by
  cases v <;> rfl
@[simp] theorem setNormMag_len (s : State) (v : Option (Vec3 Scalar)) : (s.setNormMag v).len = s.len := by
  cases v <;> rfl
@[simp] theorem setNormMag_tms (s : State) (v : Option (Vec3 Scalar)) : (s.setNormMag v).tms = s.tms := by
  cases v <;> rfl
@[simp] theorem setNormMag_expect (s : State) (v : Option (Vec3 Scalar)) : (s.setNormMag v).expect = s.expect := by
  cases v <;> rfl
@[simp] theorem setNormMag_digest (s : State) (v : Option (Vec3 Scalar)) : (s.setNormMag v).digest = s.digest := by
  cases v <;> rfl
@[simp] theorem setNormMag_xoracc (s : State) (v : Option (Vec3 Scalar)) : (s.setNormMag v).xoracc = s.xoracc := by
  cases v <;> rfl
@[simp] theorem setNormMag_crcacc (s : State) (v : Option (Vec3 Scalar)) : (s.setNormMag v).crcacc = s.crcacc := by
  cases v <;> rfl
@[simp] theorem setNormMag_rkind (s : State) (v : Option (Vec3 Scalar)) : (s.setNormMag v).rkind = s.rkind := by
  cases v <;> rfl
@[simp] theorem setNormMag_rtms (s : State) (v : Option (Vec3 Scalar)) : (s.setNormMag v).rtms = s.rtms := by
  cases v <;> rfl
@[simp] theorem setNormMag_rnf (s : State) (v : Option (Vec3 Scalar)) : (s.setNormMag v).rnf = s.rnf := by
  cases v <;> rfl
@[simp] theorem setNormMag_buf (s : State) (v : Option (Vec3 Scalar)) : (s.setNormMag v).buf = s.buf := by
  cases v <;> rfl
@[simp] theorem setNormMag_pending (s : State) (v : Option (Vec3 Scalar)) : (s.setNormMag v).pending = s.pending := by
  cases v <;> rfl
@[simp] theorem setNormMag_reply (s : State) (v : Option (Vec3 Scalar)) : (s.setNormMag v).reply = s.reply := by
  cases v <;> rfl
@[simp] theorem setNormMag_resetCount (s : State) (v : Option (Vec3 Scalar)) : (s.setNormMag v).resetCount = s.resetCount := by
  cases v <;> rfl

end Sys2Proof.Machine
end

