-- ==== Sys2Proof/Laws/Step.lean ====
section
/-! SUPPORT. What one step can do, said once, and what an encoding can do. -/

namespace Sys2Proof.Machine

theorem step_idle {s : State} (h : s.pending = []) : step s = .next s := by
  simp [step, takeEvent, h]

theorem step_event {s : State} {e : Event} {rest : List Event} (h : s.pending = e :: rest) :
    step s = performEvent e { s with pending := rest, reply := none } := by
  simp [step, takeEvent, h]

/-- A step takes the next move, where it exists. -/
theorem step_move {s base : State} {m : HostMove} (h : s.nextMove m base) :
    step s = if m.allowed then hostMove m base else .refused (.noSuchMove m) := by
  obtain ⟨rest, hp, rfl⟩ := h
  exact step_event hp

/-- Every way a step answers with a next state: no event, the reset event, or a move that exists. -/
theorem step_eq_next {s t : State} : step s = .next t ↔
    (s.pending = [] ∧ t = s) ∨
    (∃ rest, s.pending = .reset :: rest ∧ t = resetBlock { s with pending := rest, reply := none }) ∨
    (∃ m base, s.nextMove m base ∧ m.allowed = true ∧ hostMove m base = .next t) := by
  constructor
  · intro h
    cases hp : s.pending with
    | nil =>
      rw [step_idle hp] at h
      injection h with h
      exact .inl ⟨rfl, h.symm⟩
    | cons e rest =>
      rw [step_event hp] at h
      cases e with
      | reset =>
        injection h with h
        exact .inr (.inl ⟨rest, rfl, h.symm⟩)
      | move m =>
        simp only [performEvent] at h
        split at h
        · rename_i ha
          exact .inr (.inr ⟨m, _, ⟨rest, hp, rfl⟩, ha, h⟩)
        · cases h
  · rintro (⟨hp, rfl⟩ | ⟨rest, hp, rfl⟩ | ⟨m, base, hm, ha, h⟩)
    · exact step_idle hp
    · rw [step_event hp]
      rfl
    · rw [step_move hm, if_pos ha, h]

/-- The table of rule R74 is the numbering of the model, in both directions. -/
theorem mem_scalarNumbers {n : Nat} {r : SReg} :
    (n, r) ∈ scalarNumbers ↔ r.number.val = n ∧ SReg.ofNumber n = some r := by
  constructor
  · have h : ∀ e ∈ scalarNumbers, e.2.number.val = e.1 ∧ SReg.ofNumber e.1 = some e.2 := by decide
    exact h (n, r)
  · rintro ⟨rfl, -⟩
    cases r <;> decide

/-- A reading move that exists leaves everything but the reply as it is (rule R56). -/
theorem hostMove_reads {m : HostMove} (h : readsLocation m) (s : State) :
    m.allowed = true ∧ ∃ r, ∀ pending reply,
      hostMove m { s with pending := pending, reply := reply } = .next { s with pending := pending, reply := r } := by
  rcases h with ⟨n, rfl, hn⟩ | ⟨n, rfl, hn⟩ | ⟨i, rfl, hi⟩
  · exact ⟨by simp only [HostMove.allowed, decide_eq_true_eq]; omega, (readScalar n s).reply, fun _ _ => rfl⟩
  · exact ⟨by simp only [HostMove.allowed, decide_eq_true_eq]; omega, (readControl n s).reply, fun _ _ => rfl⟩
  · exact ⟨(indexExists_iff i).mpr hi, (readByte i s).reply, fun _ _ => rfl⟩

/-- A command given by its word: the decoded command runs, or ILL is set. -/
theorem giveCommand_cases (w : U16) (s : State) :
    (∃ i, decode w = .ok i ∧ giveCommand w s = exec i s) ∨
    (∃ e, decode w = .error e ∧ giveCommand w s = .next s.setIll) := by
  unfold giveCommand
  cases h : decode w with
  | ok i => exact .inl ⟨i, rfl, rfl⟩
  | error e => exact .inr ⟨e, rfl, rfl⟩

/-- No source register of a kind is named as not finite exactly where all of them are finite. -/
theorem nonFiniteSource_eq_none {s : State} {e : FrameFormat} :
    s.nonFiniteSource e = none ↔ s.finiteSources e := by
  simp [State.nonFiniteSource, State.finiteSources, List.find?_eq_none]

/-- The source register a refused ENC names is one of the kind's, and is not finite. -/
theorem nonFiniteSource_eq_some {s : State} {e : FrameFormat} {r : SReg} (h : s.nonFiniteSource e = some r) :
    (∃ p, (r, p) ∈ e.fields) ∧ num.finite (s.scalar r) = false := by
  have hm := List.mem_of_find?_eq_some h
  have hf := List.find?_some h
  simp only [List.mem_map, Prod.exists, exists_and_right, exists_eq_right] at hm
  exact ⟨hm, by simpa using hf⟩

/-- Every way an encoding answers with a next state. -/
theorem encodeKind_eq_next {s t : State} {e : FrameFormat} : s.encodeKind e = .next t ↔
    s.readySources e ∧ s.putFrame (encodeFrame num e s.tms (s.fieldValues e)) = .next t := by
  unfold State.encodeKind State.readySources
  rw [andThen_requireWritten, and_assoc]
  refine and_congr_right fun _ => ?_
  cases h : s.nonFiniteSource e with
  | none => simp [nonFiniteSource_eq_none.mp h]
  | some r =>
    have : ¬s.finiteSources e := fun hf => by
      rw [nonFiniteSource_eq_none.mpr hf] at h
      cases h
    simp [this]

/-- The state of a placed command word: the event, and the operands' marks. -/
theorem withFetchWord_eq (s : State) (nbits w : Nat) : s.withFetchWord nbits w =
    { s with pending := commandEvents nbits w ++ s.pending }.markAll (wordOperands nbits w) := rfl

end Sys2Proof.Machine
end

