-- ==== Sys2Proof/Tests/Slice0.lean ====
section
/-! SUPPORT. The model's own tests: the smoke test of well-formedness, command words written out bit by bit, one step
a command on the vectors of 95_test_vectors.md, and for each statement with hypotheses a state that meets
them. -/

namespace Sys2Proof.Tests
open Sys2Proof.Machine
-- One declaration after another: the tests' evaluations together would ask for too many threads.
set_option Elab.async false

/-- `n` bytes written as one hexadecimal number, first byte first. -/
def spell : (n v : Nat) → Bytes
  | 0, _ => []
  | n + 1, v => BitVec.ofNat 8 (v / 256 ^ n) :: spell n v

/-- The state after reset with `bytes` loaded and LEN set. -/
def loaded (bytes : Bytes) : State :=
  { State.reset with buf := memWriteSeq [] 0 bytes, len := BitVec.ofNat 16 bytes.length }

/-- The state after reset with one move waiting. -/
def waiting (m : HostMove) : State := { State.reset with pending := [.move m] }

/-- The state after reset with every register written, each with the value it holds. -/
def ready : State := { State.reset with written := Vector.replicate 44 true }

/-- The ready state with scalar registers set. -/
def withScalars (ws : List (SReg × Scalar)) : State := ready.setScalars ws

/-- An outcome is a next state with a property. -/
def onNext (o : Host.Outcome State Fault Refusal) (p : State → Bool) : Bool :=
  match o with
  | .next t => p t
  | _ => false

/-- The bytes a state has in its buffer, in index order. -/
def bytesOf (s : State) : Bytes := s.buf.map Prod.snd

theorem loaded_holds (bytes : Bytes) (h : bytes.length ≤ 375) : (loaded bytes).holds bytes := by
  refine ⟨?_, le_bufCap_of_le_maxFrame h, fun i hi => ?_⟩
  · simp only [loaded, BitVec.toNat_ofNat]
    omega
  · simp [loaded, memRead_memWriteSeq, hi]

theorem waiting_nextMove (m : HostMove) : (waiting m).nextMove m State.reset := ⟨[], rfl, rfl⟩

/-! ### Host moves that rule R226 does not have are ill formed -/

theorem test_wf_wrs_quaternion : (HostMove.wrs 12 b32One).allowed = false := by decide
theorem test_wf_rds_reserved : (HostMove.rds 33).allowed = false := by decide
theorem test_wf_wrc_status : (HostMove.wrc 0 0).allowed = false := by decide
theorem test_wf_wrc_tms_too_wide : (HostMove.wrc 3 4294967296).allowed = false := by decide
theorem test_wf_wrc_expect_too_wide : (HostMove.wrc 4 65536).allowed = false := by decide
theorem test_wf_wrc_reserved : (HostMove.wrc 11 0).allowed = false := by decide
theorem test_wf_rdc_reserved : (HostMove.rdc 11).allowed = false := by decide
theorem test_wf_wrc_len_above_cap : (HostMove.wrc 2 (Config.bufCap + 1)).allowed = false := by
  rw [Bool.eq_false_iff]
  intro h
  simp only [HostMove.allowed, HostMove.wrcAllowed] at h
  have := (lengthFits_iff _).mp (Bool.and_eq_true_iff.mp h).2
  omega
theorem test_wf_wrb_past_buffer : (HostMove.wrb Config.bufCap 0).allowed = false := by
  rw [Bool.eq_false_iff]
  intro h
  have := (indexExists_iff _).mp h
  omega
theorem test_wf_rdb_past_buffer : (HostMove.rdb Config.bufCap).allowed = false := by
  rw [Bool.eq_false_iff]
  intro h
  have := (indexExists_iff _).mp h
  omega
theorem test_wf_event : (Event.move (.wrs 12 b32One)).wf = false := by decide

/-! ### Command words, bit by bit from rule R71 -/

theorem test_decode_csinit : decode 0b0000000100000000 = .ok .csinit := by decide
theorem test_decode_csput : decode 0b0000001001000001 = .ok (.csput 0x41) := by decide
theorem test_decode_xor8 : decode 0b0000001100000000 = .ok .xor8 := by decide
theorem test_decode_crc16 : decode 0b0000010000000000 = .ok .crc16 := by decide
theorem test_decode_verify_xor8 : decode 0b0000010100000000 = .ok (.verify .xor8) := by decide
theorem test_decode_verify_crc16 : decode 0b0000010100000001 = .ok (.verify .crc16) := by decide
theorem test_decode_encL1 : decode 0b0001000000000001 = .ok .encL1 := by decide
theorem test_decode_encL2 : decode 0b0001000000000010 = .ok .encL2 := by decide
theorem test_decode_dec : decode 0b0001000100000000 = .ok .dec := by decide
theorem test_decode_update : decode 0b0010000000000000 = .ok .update := by decide
theorem test_decode_euler : decode 0b0010000100000000 = .ok .euler := by decide
theorem test_illegal_op_zero : decode 0b0000000000000000 = .error (.unknownOp 0) := by decide
theorem test_illegal_csinit_arg : decode 0b0000000100000001 = .error (.argNotZero 1) := by decide
theorem test_illegal_verify_alg_two : decode 0b0000010100000010 = .error (.unknownAlg 2) := by decide
theorem test_illegal_enc_kind_three : decode 0b0001000000000011 = .error (.unknownKind 3) := by decide
theorem test_table_word : decodeTableWord 16 0x1002 = some .encL2 := by decide
theorem test_max_frame : Config.maxFrame = 375 := by decide

/-! ### One step a command, on the vectors of 95_test_vectors.md -/

/-- Rule R104. -/
theorem test_csinit : onNext (exec .csinit { State.reset with xoracc := 0x31, crcacc := 0x29B1 })
    (fun t => t.xoracc == 0x00 && t.crcacc == 0xFFFF) = true := by decide +kernel

/-- Vector S9 and the example of rule R105. -/
theorem test_csput : onNext (exec (.csput 0x41) State.reset)
    (fun t => t.xoracc == 0x41 && t.crcacc == 0xB915) = true := by decide +kernel

/-- Vector K5. -/
theorem test_xor8 : onNext (exec .xor8 (loaded (spell 9 0x313233343536373839)))
    (fun t => t.digest == 0x0031 && t.xoracc == 0x00) = true := by decide +kernel

/-- Vector K5. -/
theorem test_crc16 : onNext (exec .crc16 (loaded (spell 9 0x313233343536373839)))
    (fun t => t.digest == 0x29B1 && t.crcacc == 0xFFFF) = true := by decide +kernel

/-- Vector V1. -/
theorem test_verify_match : onNext (exec (.verify .crc16) ((loaded (spell 9 0x313233343536373839)).setControl .expect 0x29B1))
    (fun t => t.matchFlag && t.digest == 0) = true := by decide +kernel

/-- Vector V4: the high byte of EXPECT is not zero. -/
theorem test_verify_high_byte :
    onNext (exec (.verify .xor8) (State.setControl { loaded (spell 9 0x313233343536373839) with status := 0x03 } .expect 0x3131))
      (fun t => t.status == 0x02) = true := by decide +kernel

/-- Vector E1. -/
theorem test_encL1 :
    onNext (exec .encL1 { withScalars [(.ax, .fin false 0x3F4CCCCD), (.ay, .fin false 0x3DFBE76D), (.az, .fin false 0x411CF5C3),
        (.alt, .fin false 0x42C80000), (.temp, .fin false 0x41C80000)] with tms := 1000 })
      (fun t => t.len == 60 && bytesOf t ==
        (spell 30 0x244C312C313030302C302E3830302C302E3132332C392E3831302C302E30 ++ spell 30 0x30302C302E3030302C302E3030302C3130302E30302C32352E30302A3645)) = true := by
  decide +kernel

/-- Vector E3. -/
theorem test_encL2 :
    onNext (exec .encL2 { withScalars [(.roll, .fin true 0x4145851F), (.pitch, .fin false 0x42B3FF7D),
        (.yaw, .fin true 0x4333FEB8), (.alt, .fin false 0x449A5000), (.temp, .fin true 0x40A80000)] with tms := 4294967295 })
      (fun t => t.len == 54 && bytesOf t ==
        (spell 30 0x244C322C343239343936373239352C2D31322E33352C39302E30302C2D31 ++ spell 24 0x37392E39392C313233342E35302C2D352E32352A45444446)) = true := by
  decide +kernel

/-- Rule R39's example: ENC 2 before any EULER reads ROLL unwritten and is refused. -/
theorem test_encL2_before_euler :
    exec .encL2 (((State.reset.setControl .tms 1000).setScalar .alt b32One).setScalar .temp b32One)
      = .refused (.unwrittenRegister (.scalar .roll)) := rfl

/-- Vector DV2, the values that binary32 holds exactly. -/
theorem test_dec :
    onNext (exec .dec (loaded (spell 30 0x244C322C343239343936373239352C2D31322E33352C39302E30302C2D31 ++ spell 24 0x37392E39392C313233342E35302C2D352E32352A45444446)))
      (fun t => t.err == 0 && t.rkind == 2 && t.rtms == 4294967295 && t.rnf == 5
        && t.scalar .r1 == .fin false 0x42B40000 && t.scalar .r3 == .fin false 0x449A5000
        && t.scalar .r4 == .fin true 0x40A80000
        && t.scalar .r5 == b32Zero) = true := by decide +kernel

/-- Vector DV29: the algorithm before the count. -/
theorem test_dec_wrong_algorithm :
    onNext (exec .dec (loaded (spell 11 0x244C322C313030302A3533))) (fun t => t.err == 2) = true := by decide +kernel

/-- Vector A3: AN and MN of one UPDATE. -/
theorem test_update_vectors :
    onNext (exec .update (withScalars [(.ax, .fin false 0x40400000), (.az, .fin false 0x40800000), (.my, .fin false 0x40000000), (.dt, .fin false 0x3D4CCCCD)]))
      (fun t => !t.degenFlag && t.normAccel == ⟨.fin false 0x3F19999A, b32Zero, .fin false 0x3F4CCCCD⟩
        && t.normMag == ⟨b32Zero, b32One, b32Zero⟩) = true := by decide +kernel

/-- Vector A8b: the quaternion after one UPDATE, with the value of pi the vector was computed with. -/
theorem test_update_quaternion :
    (updateResult (binary32 (.fin false 0x40490FDB) id (fun y _ => y) b32OfDec) ⟨b32Zero, b32Zero, b32One⟩
        ⟨.fin false 0x41200000, .fin false 0x41A00000, .fin false 0x41F00000⟩
        ⟨b32One, b32Zero, b32Zero⟩ (.fin false 0x3DCCCCCD) identityQuat).quat
      = ⟨.fin false 0x3F7FDD19, .fin false 0x3C0EE6B7, .fin false 0x3C8EE6B7,
          .fin false 0x3CD65A12⟩ := by decide +kernel

/-- Vector A9: the clamp and P-ASIN90. -/
theorem test_euler_clamp :
    (eulerAngles (binary32 (.fin false 0x40490FDB) (fun _ => .fin false 0x3FC90FDB) (fun y _ => y) b32OfDec)
        ⟨.fin false 0x3F4CCCCD, b32Zero, .fin false 0x3F4CCCCD, b32Zero⟩).pitch = b32Ninety := by decide +kernel

/-- EULER runs right after reset (rule R39's other example), writes ROLL, PITCH and YAW and leaves the
quaternion. -/
theorem test_euler_frame : onNext (exec .euler State.reset)
    (fun t => t.quat == identityQuat && t.isWritten (.scalar .yaw) && !t.isWritten (.scalar .an0)) = true := by
  decide +kernel

/-- 95_test_vectors.md section 2.5: from STATUS = 0x01, `CMD 0x1003` gives STATUS = 0x05. -/
theorem test_illegal_word : onNext (step { waiting (.cmd 0x1003) with status := 0x01 })
    (fun t => t.status == 0x05 && t.pending == []) = true := by decide +kernel

/-- Rule R75: control register 5 is DIGEST. -/
theorem test_rdc : onNext (step { (State.reset.setDigest 0x29B1).setControl .expect 0x0031 with pending := [.move (.rdc 5)] })
    (fun t => t.reply == some (.control 0x29B1)) = true := by decide +kernel

/-- The first field of vector DV2, under the rounding that rule R152 states for binary32. -/
theorem test_parse_nearest :
    parseNum (binary32 numPi numAsin Config.freeAtan2 b32OfDec) (spell 6 0x2D31322E3335) = some (.fin true 0x4145999A) := by
  decide +kernel

/-- Vectors F1 and F8: a tie to even, and the sign of a value that prints as zero. -/
theorem test_fmt_fixed : fmtFixed num (.fin false 0x3E000000) 2 = (spell 4 0x302E3132) ∧
    fmtFixed num (.fin true 0x3A83126F) 2 = (spell 5 0x2D302E3030) := by decide +kernel

/-! ### A state that meets the hypotheses of each statement that has some -/

theorem test_witness_IllegalWordSetsIllAlone :
    (waiting (.cmd 0x0502)).nextMove (.cmd 0x0502) State.reset ∧ decode 0x0502 = .error (.unknownAlg 2) :=
  ⟨waiting_nextMove _, by decide⟩

theorem test_witness_StepRunsDecodedCommand :
    (waiting (.cmd 0x0501)).nextMove (.cmd 0x0501) State.reset ∧ decode 0x0501 = .ok (.verify .crc16) :=
  ⟨waiting_nextMove _, by decide⟩

theorem test_witness_HostWritesOneRegister :
    (11 < 12 ∧ (11, .temp) ∈ scalarNumbers ∧ (0, .ax) ∈ scalarNumbers ∧
      (waiting (.wrs 11 b32One)).nextMove (.wrs 11 b32One) State.reset) ∧
    (Config.bufCap ≤ Config.bufCap ∧
      (waiting (.wrc 2 Config.bufCap)).nextMove (.wrc 2 Config.bufCap) State.reset) ∧
    (4294967295 < 2 ^ 32 ∧ (waiting (.wrc 3 4294967295)).nextMove (.wrc 3 4294967295) State.reset) ∧
    (65535 < 2 ^ 16 ∧ (waiting (.wrc 4 65535)).nextMove (.wrc 4 65535) State.reset) :=
  ⟨⟨by decide, by decide, by decide, waiting_nextMove _⟩, ⟨le_refl _, waiting_nextMove _⟩, ⟨by decide, waiting_nextMove _⟩,
    by decide, waiting_nextMove _⟩

theorem test_witness_HostWritesOneByte :
    Config.bufCap - 1 < Config.bufCap ∧
      (waiting (.wrb (Config.bufCap - 1) 0xFF)).nextMove (.wrb (Config.bufCap - 1) 0xFF) State.reset := by
  have h := maxFrame_eq ▸ maxFrame_le_bufCap
  exact ⟨by omega, waiting_nextMove _⟩

/-- Every register written, and one move waiting. -/
def readyFor (m : HostMove) : State := { ready with pending := [.move m] }

theorem readyFor_nextMove (m : HostMove) : (readyFor m).nextMove m ready := ⟨[], rfl, rfl⟩

theorem ready_writtenAll (rs : List Reg) : ready.writtenAll rs :=
  fun r _ => by simp [State.isWritten, ready]

theorem test_witness_HostReadsReturnValuesAlone_written :
    ((0, .ax) ∈ scalarNumbers ∧ (32, .r7) ∈ scalarNumbers ∧ (readyFor (.rds 32)).isWritten (.scalar .r7) = true ∧
      (readyFor (.rds 32)).nextMove (.rds 32) ready) ∧
    ((0, .status, 8, 0) ∈ (waiting (.rdc 0)).controlNumbers ∧
      (10, .rnf, 8, 0) ∈ (readyFor (.rdc 10)).controlNumbers ∧
      (waiting (.rdc 0)).isWritten (.control .status) = true ∧
      (readyFor (.rdc 10)).isWritten (.control .rnf) = true ∧ (readyFor (.rdc 10)).nextMove (.rdc 10) ready) ∧
    (0 < Config.bufCap ∧ memRead [(0, 0x24)] 0 = some 0x24 ∧
      ({ waiting (.rdb 0) with buf := [(0, 0x24)] } : State).nextMove (.rdb 0)
        { State.reset with buf := [(0, 0x24)] }) ∧
    readsLocation (.rds 32) ∧ readsLocation (.rdc 10) ∧ readsLocation (.rdb (Config.bufCap - 1)) := by
  have h := maxFrame_eq ▸ maxFrame_le_bufCap
  exact ⟨⟨by decide, by decide, by decide, readyFor_nextMove _⟩,
    ⟨by decide, by decide, by decide, by decide, readyFor_nextMove _⟩, ⟨by omega, rfl, [], rfl, rfl⟩,
    .inl ⟨32, rfl, by decide⟩, .inr (.inl ⟨10, rfl, by decide⟩), .inr (.inr ⟨_, rfl, by omega⟩)⟩

theorem test_witness_HostReadsReturnValuesAlone_unwritten :
    ((32, .r7) ∈ scalarNumbers ∧ (waiting (.rds 32)).isWritten (.scalar .r7) = false ∧
      (waiting (.rds 32)).nextMove (.rds 32) State.reset) ∧
    ((10, .rnf, 8, 0) ∈ (waiting (.rdc 10)).controlNumbers ∧
      (waiting (.rdc 10)).isWritten (.control .rnf) = false ∧
      (waiting (.rdc 10)).nextMove (.rdc 10) State.reset) ∧
    (374 < Config.bufCap ∧ memRead State.reset.buf 374 = none ∧ memRead [(0, 0x24)] 374 = none ∧
      (waiting (.rdb 374)).nextMove (.rdb 374) State.reset ∧
      ({ waiting (.rdb 374) with buf := [(0, 0x24)] } : State).nextMove (.rdb 374)
        { State.reset with buf := [(0, 0x24)] }) := by
  have h := maxFrame_eq ▸ maxFrame_le_bufCap
  exact ⟨⟨by decide, by decide, waiting_nextMove _⟩, ⟨by decide, by decide, waiting_nextMove _⟩,
    by omega, rfl, rfl, waiting_nextMove _, [], rfl, rfl⟩

theorem test_witness_MovesOutsideTheTableDoNotExist :
    (∃ n v, HostMove.wrs 12 b32One = .wrs n v ∧ 12 ≤ n) ∧ (∃ n, HostMove.rds 33 = .rds n ∧ 33 ≤ n) ∧
    (∃ n v, HostMove.wrc 5 0 = .wrc n v ∧ n ≠ 2 ∧ n ≠ 3 ∧ n ≠ 4) ∧
    (∃ v, HostMove.wrc 2 (Config.bufCap + 1) = .wrc 2 v ∧ Config.bufCap < v) ∧
    (∃ v, HostMove.wrc 3 (2 ^ 32) = .wrc 3 v ∧ 2 ^ 32 ≤ v) ∧
    (∃ v, HostMove.wrc 4 (2 ^ 16) = .wrc 4 v ∧ 2 ^ 16 ≤ v) ∧ (∃ n, HostMove.rdc 11 = .rdc n ∧ 11 ≤ n) ∧
    (∃ i b, HostMove.wrb Config.bufCap 0 = .wrb i b ∧ Config.bufCap ≤ i) ∧
    (∃ i, HostMove.rdb Config.bufCap = .rdb i ∧ Config.bufCap ≤ i) ∧
    ∀ m, (waiting m).nextMove m State.reset :=
  ⟨⟨_, _, rfl, le_refl _⟩, ⟨_, rfl, le_refl _⟩, ⟨_, _, rfl, by decide⟩, ⟨_, rfl, Nat.lt_succ_self _⟩,
    ⟨_, rfl, le_refl _⟩, ⟨_, rfl, le_refl _⟩, ⟨_, rfl, le_refl _⟩, ⟨_, _, rfl, le_refl _⟩, ⟨_, rfl, le_refl _⟩,
    waiting_nextMove⟩

theorem test_witness_ResetEventLoadsResetValues :
    ({ loaded [0x24] with pending := [.reset] } : State).pending = .reset :: [] := rfl

/-- One byte loaded, and a WRB of the next waiting. -/
def oneByte : State := { loaded [0x24] with pending := [.move (.wrb 1 0x2A)] }

theorem test_witness_StepKeepsInv :
    oneByte.Inv ∧
      step oneByte = .next { loaded [0x24] with buf := [(0, 0x24), (1, 0x2A)] } :=
  ⟨⟨by decide, le_bufCap_of_le_maxFrame (by decide), by decide, by decide, by decide, by decide, by decide⟩, rfl⟩

theorem test_witness_StreamingMatchesWholeBuffer :
    exec .xor8 State.reset = .next (State.reset.setDigest 0) ∧
      exec .dec State.reset = .next { State.reset with err := 1 } := ⟨rfl, rfl⟩

theorem test_witness_readers_of_a_message : (loaded (spell 9 0x313233343536373839)).holds (spell 9 0x313233343536373839) :=
  loaded_holds _ (by decide)

theorem test_witness_VerifyWritesMatchAlone :
    ((loaded (spell 9 0x313233343536373839)).setControl .expect 0xFFFF).holds (spell 9 0x313233343536373839) ∧
      ((loaded (spell 9 0x313233343536373839)).setControl .expect 0xFFFF).isWritten (.control .expect) = true :=
  ⟨loaded_holds _ (by decide), by decide +kernel⟩

theorem test_witness_EmptyInputDigests : State.reset.len = 0 := rfl

theorem test_witness_UnwrittenLocationRefusesCommands :
    (readsBuffer (.verify .xor8) ∧ ({ loaded [0x24] with len := 2 } : State).len.toNat ≤ Config.bufCap ∧
      1 < ({ loaded [0x24] with len := 2 } : State).len.toNat ∧ memRead (loaded [0x24]).buf 1 = none ∧
      ∀ j, j < 1 → memRead (loaded [0x24]).buf j ≠ none) ∧
    (Reg.scalar .yaw ∈ operandsOf .encL2 ∧ State.reset.isWritten (.scalar .yaw) = false ∧
      (readsBuffer .encL2 → ∃ bytes, State.reset.holds bytes)) ∧
    (Reg.control .expect ∈ operandsOf (.verify .crc16) ∧ (loaded [0x24]).isWritten (.control .expect) = false ∧
      (readsBuffer (.verify .crc16) → ∃ bytes, (loaded [0x24]).holds bytes)) :=
  ⟨⟨trivial, le_bufCap_of_le_maxFrame (by decide), by decide, by decide, by decide⟩,
    ⟨by decide, by decide, False.elim⟩, by decide, by decide, fun _ => ⟨[0x24], loaded_holds _ (by decide)⟩⟩

theorem test_witness_SingleBitFlipChangesXorDigest : 0 < 8 ∧ 7 < 8 := by decide

theorem test_witness_SplitInvertsJoin :
    ([[], [0x31]] : List Bytes) ≠ [] ∧ ∀ p ∈ ([[], [0x31]] : List Bytes), chComma ∉ p := by decide

theorem test_witness_DecimalTextIsTheNumeral :
    isDigits [chZero] = true ∧ digitsValue [chZero] = 0 ∧ ([chZero].head? = some chZero → [chZero] = [chZero]) := by
  decide

theorem test_witness_HexTextSpellsTheNumber : 9 < 10 ∧ 10 ≤ 10 ∧ 15 < 16 ∧ 0xFFFF < 16 ^ 4 ∧
    hexW 0xFFFF 4 = (spell 4 0x46464646) := by decide +kernel

theorem test_witness_EncStoresTheFrame :
    ready.readySources Config.formatL1 ∧ ready.readySources Config.formatL2 := by
  refine ⟨⟨ready_writtenAll _, ?_⟩, ready_writtenAll _, ?_⟩ <;> unfold State.finiteSources <;> decide +kernel

theorem test_witness_EncRefusesNonFiniteSource :
    num.finite ((withScalars [(.alt, .nan)]).scalar .alt) = false ∧ (.alt, 2) ∈ Config.formatL1.fields ∧
      (.alt, 2) ∈ Config.formatL2.fields ∧ (withScalars [(.alt, .nan)]).writtenAll (operandsOf .encL1) ∧
      (withScalars [(.alt, .nan)]).writtenAll (operandsOf .encL2) := by
  unfold State.writtenAll
  decide +kernel

theorem test_witness_DecRejectsWrongDigest :
    (loaded (spell 8 0x244C322A34334245)).holds (spell 8 0x244C322A34334245) ∧
      framedAs (spell 8 0x244C322A34334245) (spell 2 0x4C32) (spell 4 0x34334245) ∧
      (spell 4 0x34334245) ≠ hexW (xor8 (spell 2 0x4C32)).toNat 2 ∧ (spell 4 0x34334245) ≠ hexW (crc16 (spell 2 0x4C32)).toNat 4 :=
  ⟨loaded_holds _ (by decide), ⟨[], by decide, by decide, by decide, by decide⟩, by decide +kernel,
    by decide +kernel⟩

theorem test_witness_DecRejectsTamperedDigest :
    chStar ∉ (spell 2 0x4C32) ∧ 3 < (digestField .crc16 (spell 2 0x4C32)).length ∧
      (digestField .crc16 (spell 2 0x4C32))[3]? ≠ some 0x45 ∧
      (loaded (spell 8 0x244C322A34334245)).holds
        (chDollar :: (spell 2 0x4C32) ++ chStar :: (digestField .crc16 (spell 2 0x4C32)).set 3 0x45) := by
  have h : chDollar :: (spell 2 0x4C32) ++ chStar :: (digestField .crc16 (spell 2 0x4C32)).set 3 0x45 = (spell 8 0x244C322A34334245) := by
    decide +kernel
  refine ⟨by decide, by decide +kernel, by decide +kernel, ?_⟩
  rw [h]
  exact loaded_holds _ (by decide)

theorem test_witness_DecRejectsWrongAlgorithm_L2 :
    (loaded (spell 11 0x244C322C313030302A3533)).holds
      (spell 11 0x244C322C313030302A3533) ∧
    checkedFrame (spell 11 0x244C322C313030302A3533)
      .xor8 (spell 2 0x4C32) [(spell 4 0x31303030)] :=
  ⟨loaded_holds _ (by decide +kernel), ⟨⟨[], by decide +kernel, by decide, by decide, by decide +kernel⟩,
    by decide +kernel⟩⟩

theorem test_witness_DecRejectsWrongAlgorithm_L1 :
    (loaded (spell 30 0x244C312C313030302C302E3830302C302E3132332C392E3831302C302E30 ++ spell 30 0x30302C302E3030302C302E3030302C3130302E30302C32352E30302A3531 ++ spell 2 0x4531)).holds
      (spell 30 0x244C312C313030302C302E3830302C302E3132332C392E3831302C302E30 ++ spell 30 0x30302C302E3030302C302E3030302C3130302E30302C32352E30302A3531 ++ spell 2 0x4531) ∧
    checkedFrame (spell 30 0x244C312C313030302C302E3830302C302E3132332C392E3831302C302E30 ++ spell 30 0x30302C302E3030302C302E3030302C3130302E30302C32352E30302A3531 ++ spell 2 0x4531)
      .crc16 (spell 2 0x4C31) [(spell 4 0x31303030), (spell 5 0x302E383030), (spell 5 0x302E313233), (spell 5 0x392E383130), (spell 5 0x302E303030), (spell 5 0x302E303030), (spell 5 0x302E303030), (spell 6 0x3130302E3030), (spell 5 0x32352E3030)] :=
  ⟨loaded_holds _ (by decide +kernel), ⟨⟨[], by decide +kernel, by decide, by decide, by decide +kernel⟩,
    by decide +kernel⟩⟩

theorem test_witness_DecRejectsUnknownTag :
    (loaded (spell 16 0x244C332C313030302C302E30302A3630)).holds
      (spell 16 0x244C332C313030302C302E30302A3630) ∧
    checkedFrame (spell 16 0x244C332C313030302C302E30302A3630)
      .xor8 (spell 2 0x4C33) [(spell 4 0x31303030), (spell 4 0x302E3030)]
    ∧ (spell 2 0x4C33) ≠ [0x4C, 0x31] ∧ (spell 2 0x4C33) ≠ [0x4C, 0x32] :=
  ⟨loaded_holds _ (by decide +kernel), ⟨⟨[], by decide +kernel, by decide, by decide, by decide +kernel⟩,
    by decide +kernel⟩, by decide, by decide⟩

theorem test_witness_DecRejectsWrongCount_L1 :
    (loaded (spell 6 0x244C312A3744)).holds
      (spell 6 0x244C312A3744) ∧
    checkedFrame (spell 6 0x244C312A3744)
      .xor8 (spell 2 0x4C31) [] ∧
      (spell 2 0x4C31) = [0x4C, 0x31] ∧ ([] : List Bytes).length ≠ 9 :=
  ⟨loaded_holds _ (by decide +kernel), ⟨⟨[], by decide +kernel, by decide, by decide, by decide +kernel⟩,
    by decide +kernel⟩, by decide, by decide⟩

theorem test_witness_DecRejectsWrongCount_L2 :
    (loaded (spell 35 0x244C322C313030302C302E30302C302E30302C302E30302C3130302E30302A46354137)).holds
      (spell 35 0x244C322C313030302C302E30302C302E30302C302E30302C3130302E30302A46354137) ∧
    checkedFrame (spell 35 0x244C322C313030302C302E30302C302E30302C302E30302C3130302E30302A46354137)
      .crc16 (spell 2 0x4C32) [(spell 4 0x31303030), (spell 4 0x302E3030), (spell 4 0x302E3030), (spell 4 0x302E3030), (spell 6 0x3130302E3030)] ∧
      (spell 2 0x4C32) = [0x4C, 0x32] ∧ ([[], [], [], [], []] : List Bytes).length ≠ 6 :=
  ⟨loaded_holds _ (by decide +kernel), ⟨⟨[], by decide +kernel, by decide, by decide, by decide +kernel⟩,
    by decide +kernel⟩, by decide, by decide⟩

theorem test_witness_DecRejectsUnparsableField :
    (loaded (spell 37 0x244C322C313030302C302E30302C302E30302C2C3130302E30302C32352E30302A44443841)).holds
      (spell 37 0x244C322C313030302C302E30302C302E30302C2C3130302E30302C32352E30302A44443841) ∧
    checkedFrame (spell 37 0x244C322C313030302C302E30302C302E30302C2C3130302E30302C32352E30302A44443841)
      .crc16 (spell 2 0x4C32) [(spell 4 0x31303030), (spell 4 0x302E3030), (spell 4 0x302E3030), [], (spell 6 0x3130302E3030), (spell 5 0x32352E3030)] ∧
      Config.formatL2 ∈ Config.fmtTable ∧ parseNum num [] = none :=
  ⟨loaded_holds _ (by decide +kernel), ⟨⟨[], by decide +kernel, by decide, by decide, by decide +kernel⟩,
    by decide +kernel⟩, by decide, by decide +kernel⟩

theorem test_witness_DecRejectsUnparsableTimestamp :
    (loaded (spell 30 0x244C322C343239343936373239362C302E30302C302E30302C302E30302C ++ spell 17 0x3130302E30302C32352E30302A35343438)).holds
      (spell 30 0x244C322C343239343936373239362C302E30302C302E30302C302E30302C ++ spell 17 0x3130302E30302C32352E30302A35343438) ∧
    checkedFrame (spell 30 0x244C322C343239343936373239362C302E30302C302E30302C302E30302C ++ spell 17 0x3130302E30302C32352E30302A35343438)
      .crc16 (spell 2 0x4C32) [(spell 10 0x34323934393637323936), (spell 4 0x302E3030), (spell 4 0x302E3030), (spell 4 0x302E3030), (spell 6 0x3130302E3030), (spell 5 0x32352E3030)] ∧
      Config.formatL2 ∈ Config.fmtTable ∧ parseTs (spell 10 0x34323934393637323936) = none :=
  ⟨loaded_holds _ (by decide +kernel), ⟨⟨[], by decide +kernel, by decide, by decide, by decide +kernel⟩,
    by decide +kernel⟩, by decide, by decide +kernel⟩

theorem test_witness_DecSuccessWritesResults :
    (loaded (spell 41 0x244C322C313030302C302E30302C302E30302C302E30302C3130302E30302C32352E30302A44373236)).holds
      (spell 41 0x244C322C313030302C302E30302C302E30302C302E30302C3130302E30302C32352E30302A44373236) ∧
    checkedFrame (spell 41 0x244C322C313030302C302E30302C302E30302C302E30302C3130302E30302C32352E30302A44373236)
      .crc16 (spell 2 0x4C32) [(spell 4 0x31303030), (spell 4 0x302E3030), (spell 4 0x302E3030), (spell 4 0x302E3030), (spell 6 0x3130302E3030), (spell 5 0x32352E3030)] ∧
      Config.formatL2 ∈ Config.fmtTable ∧ parseTs (spell 4 0x31303030) = some 1000 ∧
      [(spell 4 0x302E3030), (spell 4 0x302E3030), (spell 4 0x302E3030), (spell 6 0x3130302E3030), (spell 5 0x32352E3030)].map (parseNum num) =
        ([b32Zero, b32Zero, b32Zero, .fin false 0x42C80000, .fin false 0x41C80000] : List Scalar).map some :=
  ⟨loaded_holds _ (by decide +kernel), ⟨⟨[], by decide +kernel, by decide, by decide, by decide +kernel⟩,
    by decide +kernel⟩, by decide, by decide +kernel, by decide +kernel⟩

theorem test_witness_CodecRoundTripForEveryNum :
    Config.formatL2 ∈ Config.fmtTable ∧
      ([(b32One, 2), (b32Two, 2), (b32Half, 2), (b32Zero, 2), (b32One, 2)] : List (Scalar × Nat)).length
        = Config.formatL2.fields.length ∧
      ([(b32One, 2), (b32Two, 2), (b32Half, 2), (b32Zero, 2), (b32One, 2)] : List (Scalar × Nat)).map
          (fun f => num.ofDec (num.neg f.1) (fixedValue num f.1 f.2))
        = [b32One, b32Two, b32Half, b32Zero, b32One].map some := by decide +kernel

theorem test_witness_UpdateFollowsSevenSteps : ready.writtenAll (operandsOf .update) := ready_writtenAll _

theorem test_witness_ZeroVectorsSetDegen :
    (num.isZero (ready.scalar .ax) ∧ num.isZero (ready.scalar .ay) ∧ num.isZero (ready.scalar .az)) ∧
    (num.isZero (ready.scalar .mx) ∧ num.isZero (ready.scalar .my) ∧ num.isZero (ready.scalar .mz)) := by
  decide +kernel

theorem test_witness_QuaternionIgnoresAccelAndMag :
    ready.gyro = (withScalars [(.ax, b32One), (.mz, b32Two)]).gyro ∧
      ready.scalar .dt = (withScalars [(.ax, b32One), (.mz, b32Two)]).scalar .dt ∧
      ready.quat = (withScalars [(.ax, b32One), (.mz, b32Two)]).quat ∧
      (withScalars [(.ax, b32One), (.mz, b32Two)]).writtenAll (operandsOf .update) := by
  unfold State.writtenAll
  decide +kernel

theorem test_witness_ZeroRateKeepsIdentity :
    1 ≤ 500 ∧ (withScalars [(.az, b32Gravity), (.gx, .fin true 0), (.dt, .fin false 0x3D4CCCCD)]).quat = identityQuat ∧
      num.isZero ((withScalars [(.az, b32Gravity), (.gx, .fin true 0), (.dt, .fin false 0x3D4CCCCD)]).scalar .gx) ∧
      num.isZero ((withScalars [(.az, b32Gravity), (.gx, .fin true 0), (.dt, .fin false 0x3D4CCCCD)]).scalar .gy) ∧
      num.isZero ((withScalars [(.az, b32Gravity), (.gx, .fin true 0), (.dt, .fin false 0x3D4CCCCD)]).scalar .gz) ∧
      num.finite ((withScalars [(.az, b32Gravity), (.gx, .fin true 0), (.dt, .fin false 0x3D4CCCCD)]).scalar .dt) ∧
      (withScalars [(.az, b32Gravity), (.gx, .fin true 0), (.dt, .fin false 0x3D4CCCCD)]).accel
        = ⟨b32Zero, b32Zero, b32Gravity⟩ ∧
      (withScalars [(.az, b32Gravity), (.gx, .fin true 0), (.dt, .fin false 0x3D4CCCCD)]).mag
        = ⟨b32Zero, b32Zero, b32Zero⟩ ∧
      (withScalars [(.az, b32Gravity), (.gx, .fin true 0), (.dt, .fin false 0x3D4CCCCD)]).writtenAll
        (operandsOf .update) := by
  unfold State.writtenAll
  decide +kernel

theorem test_witness_NormalizationGivesUnitNorm :
    (finiteQuat ⟨b32Half, b32Zero, b32Zero, b32Zero⟩ ∧ 1 / 4 ≤ normSq ⟨b32Half, b32Zero, b32Zero, b32Zero⟩ ∧
      normSq ⟨b32Half, b32Zero, b32Zero, b32Zero⟩ ≤ 2 ^ 100) ∧
    (finiteQuat ⟨.fin false 0x58800000, b32Zero, b32Zero, b32Zero⟩ ∧
      1 / 4 ≤ normSq ⟨.fin false 0x58800000, b32Zero, b32Zero, b32Zero⟩ ∧
      normSq ⟨.fin false 0x58800000, b32Zero, b32Zero, b32Zero⟩ ≤ 2 ^ 100) := by
  unfold finiteQuat
  decide +kernel

theorem test_witness_UpdateGivesUnitNorm :
    let s := ready
    let p := integrate num s.quat (quatDerivative num s.quat (gyroRates num s.gyro)) (s.scalar .dt)
    finiteQuat p ∧ 1 / 4 ≤ normSq p ∧ normSq p ≤ 2 ^ 100 := by
  intro s p
  have hp : p = integrate num identityQuat (quatDerivative num identityQuat (gyroRates num ⟨b32Zero, b32Zero, b32Zero⟩))
      b32Zero := rfl
  obtain ⟨neg, h⟩ := deg2rad_zero
  rw [hp]
  simp only [gyroRates, h]
  unfold finiteQuat
  cases neg <;> decide +kernel

theorem test_witness_ClampBringsIntoUnitRange :
    num.lt num.one b32Two = true ∧ num.lt (b32Negate b32Two) (num.negate num.one) = true ∧
      num.lt num.one b32One = false ∧ num.lt b32One (num.negate num.one) = false ∧ b32One ≠ .nan := by
  decide +kernel

theorem test_witness_GimbalLockPitchIsExact :
    clampUnit num (pitchSine num (withScalars [(.q0, .fin false 0x3F4CCCCD), (.q2, .fin false 0x3F4CCCCD)]).quat) = num.one ∧
      clampUnit num (pitchSine num (withScalars [(.q0, .fin false 0x3F4CCCCD), (.q2, .fin true 0x3F4CCCCD)]).quat)
        = num.negate num.one := by decide +kernel

theorem test_witness_ArithmeticIsCorrectlyRounded :
    |b32Val b32One + b32Val b32Half| < b32Overflow ∧
      b32Overflow ≤ |b32Val (.fin true 0x7F7FFFFF) + b32Val (.fin true 0x7F7FFFFF)| ∧
      (0x7F7FFFFF : Fin 0x7F800000).val ≠ 0 := by decide +kernel

theorem test_witness_OfDecRoundsToANeighbour :
    (num.ofDec true (5 / 4) = some (.fin true 0x3FA00000) ∧ (0 : Rat) ≤ 5 / 4) ∧
      (0 ≤ b32Val (.fin false 0x7F7FFFFF) ∧ num.ofDec false (2 ^ 128) = none ∧ (0 : Rat) ≤ 2 ^ 128) ∧
      ((0 : Rat) ≤ 0 ∧ (0 : Rat) < b32Overflow) ∧ 0 ≤ b32Overflow ∧ b32Overflow ≤ 2 ^ 128 := by decide +kernel

theorem test_witness_SquareRootIsCorrectlyRounded :
    0 ≤ b32Val (.fin true 0) ∧ 0 ≤ b32Val (.fin false 0x7F7FFFFF) := by decide +kernel

theorem test_witness_ZeroIsAbsorbingAndNeutral :
    num.finite (.fin true 0x7F7FFFFF) = true ∧ num.isZero (.fin true 0) = true := by decide +kernel

theorem test_witness_RegistersHaveTheirWriters :
    onNext (step { withScalars [(.q0, b32Two)] with pending := [.reset] })
      (fun t => t.quat != (withScalars [(.q0, b32Two)]).quat) = true ∧
    onNext (step (waiting (.cmd 0x1100))) (fun t => t.err != State.reset.err) = true ∧
    onNext (step (waiting (.cmd 0x0241))) (fun t => t.xoracc != 0 && t.crcacc != 0xFFFF) = true ∧
    onNext (step (readyFor (.cmd 0x0500))) (fun t => t.matchFlag && !ready.matchFlag) = true ∧
    onNext (step (readyFor (.cmd 0x2000))) (fun t => t.degenFlag && !ready.degenFlag) = true ∧
    onNext (step (waiting (.cmd 0x0000))) (fun t => t.illFlag && !State.reset.illFlag) = true ∧
    onNext (step { State.reset with status := 0x04, pending := [.reset] }) (fun t => !t.illFlag) = true := by
  decide +kernel

theorem test_witness_BufferBytesHaveTheirWriters :
    onNext (step (waiting (.wrb 374 0x24))) (fun t => memRead t.buf 374 != none) = true ∧
      onNext (step (readyFor (.cmd 0x1002))) (fun t => memRead t.buf 0 != none) = true := by decide +kernel

theorem test_witness_FaultsExactlyPastTheBuffer : oneByte.Inv := test_witness_StepKeepsInv.1

end Sys2Proof.Tests
end

section
/-! A step runs the decoded command (rules R5, R70 and R226). -/

namespace Sys2Proof.Machine

theorem cwOp_cw (op arg : Byte) : cwOp (cw op arg) = op := BitVec.extractLsb'_append_eq_left

theorem cwArg_cw (op arg : Byte) : cwArg (cw op arg) = arg := BitVec.extractLsb'_append_eq_right

theorem decode_cw (op arg : Byte) : decode (cw op arg) = decodeFields op arg := by
  rw [decode, cwOp_cw, cwArg_cw]

/-- The word of a command decodes to it (rule R71). -/
theorem decode_encode (i : Instr) : decode (encode i) = .ok i := by
  cases i with
  | verify alg => cases alg <;> exact decode_cw _ _
  | csinit => exact decode_cw _ _
  | csput byte => exact decode_cw _ _
  | xor8 => exact decode_cw _ _
  | crc16 => exact decode_cw _ _
  | encL1 => exact decode_cw _ _
  | encL2 => exact decode_cw _ _
  | dec => exact decode_cw _ _
  | update => exact decode_cw _ _
  | euler => exact decode_cw _ _

/-- A 16-bit word is the table word of its number. -/
theorem tableWord_toNat (w : U16) : tableWord 16 w.toNat = some w := by
  have hw : w.toNat < 65536 := w.isLt
  have hmod : w.toNat % 2 ^ 16 = w.toNat := Nat.mod_eq_of_lt w.isLt
  simp only [tableWord, hmod, if_pos hw, BitVec.ofNat_toNat, BitVec.setWidth_eq]

theorem commandEvents_toNat (w : U16) : commandEvents 16 w.toNat = [.move (.cmd w)] := by
  simp only [commandEvents, tableWord_toNat]

theorem wordOperands_encode (i : Instr) : wordOperands 16 (encode i).toNat = operandsOf i := by
  simp only [wordOperands, decodeTableWord, tableWord_toNat, decode_encode]

/-- A step on a command word that decodes runs the command. -/
theorem step_cmd {s base : State} {w : U16} {i : Instr} (h : s.nextMove (.cmd w) base) (hw : decode w = .ok i) :
    step s = exec i base := by
  rw [step_move h, if_pos (show (HostMove.cmd w).allowed = true from rfl)]
  simp only [hostMove, giveCommand, hw]

/-- The word of a command, placed, is the next move; without it the state is the one before, with the reply cleared and
the operands marked. -/
theorem withFetchWord_nextMove (s : State) (i : Instr) :
    (s.withFetchWord 16 (encode i).toNat).nextMove (.cmd (encode i))
      ({ s with reply := none }.markAll (operandsOf i)) := by
  rw [withFetchWord_eq, commandEvents_toNat, wordOperands_encode]
  exact ⟨s.pending, markAll_pending _ _, by simp only [markAll_eq]⟩

/-- Settles O5: the placed word is the next move, and decodes to the command it encodes. -/
theorem stepRunsDecodedCommand : Obligations.StepRunsDecodedCommand := by
  unfold Obligations.StepRunsDecodedCommand
  exact ⟨fun _ _ _ _ h hw => step_cmd h hw, fun s i => step_cmd (withFetchWord_nextMove s i) (decode_encode i)⟩

end Sys2Proof.Machine
end

section
/-! What UPDATE writes (rules R171 to R180). -/

namespace Sys2Proof.Machine

theorem exec_update (s : State) : exec .update s = execUpdate s := rfl

/-- UPDATE completes where its operands have been written. -/
theorem exec_update_next {s : State} (h : s.writtenAll (operandsOf .update)) :
    exec .update s = .next (s.putUpdate (updateResult num s.accel s.gyro s.mag (s.scalar .dt) s.quat)) := by
  rw [exec_update, execUpdate, requireWritten_eq_next.mpr h, andThen_next]

/-! ### The writes of an UPDATE, whatever it computed -/

/-- The writes of a normalized vector, none where its step was skipped. -/
def vecWrites (rx ry rz : SReg) : Option (Vec3 Scalar) → List (SReg × Scalar)
  | none => []
  | some v => [(rx, v.x), (ry, v.y), (rz, v.z)]

/-- The scalar writes of an UPDATE, in order. -/
def updateWrites (u : UpdateResult Scalar) : List (SReg × Scalar) :=
  vecWrites .an0 .an1 .an2 u.accel ++ (vecWrites .mn0 .mn1 .mn2 u.mag ++
    [(SReg.q0, u.quat.q0), (SReg.q1, u.quat.q1), (SReg.q2, u.quat.q2), (SReg.q3, u.quat.q3)])

theorem setNormAccel_eq (s : State) (v : Option (Vec3 Scalar)) :
    s.setNormAccel v = s.setScalars (vecWrites .an0 .an1 .an2 v) := by
  cases v <;> rfl

theorem setNormMag_eq (s : State) (v : Option (Vec3 Scalar)) :
    s.setNormMag v = s.setScalars (vecWrites .mn0 .mn1 .mn2 v) := by
  cases v <;> rfl

theorem setScalars_append (s : State) (ws ws' : List (SReg × Scalar)) :
    s.setScalars (ws ++ ws') = (s.setScalars ws).setScalars ws' := List.foldl_append

/-- An UPDATE is its scalar writes, then DEGEN. -/
theorem putUpdate_eq (s : State) (u : UpdateResult Scalar) :
    s.putUpdate u = (s.setScalars (updateWrites u)).setDegen u.degen := by
  rw [updateWrites, setScalars_append, setScalars_append, ← setNormAccel_eq, ← setNormMag_eq]
  rfl

theorem map_vecWrites {β : Type} (f : SReg → β) (rx ry rz : SReg) (v : Option (Vec3 Scalar)) :
    (vecWrites rx ry rz v).map (fun w => f w.1) = if v.isSome then [f rx, f ry, f rz] else [] := by
  cases v <;> rfl

/-- The registers an UPDATE writes, under any naming of them. -/
theorem mem_updateWrites_map {β : Type} (f : SReg → β) (u : UpdateResult Scalar) (x : β) :
    x ∈ (updateWrites u).map (fun w => f w.1) ↔
      x ∈ [f .q0, f .q1, f .q2, f .q3] ++ (if u.accel.isSome then [f .an0, f .an1, f .an2] else [])
        ++ (if u.mag.isSome then [f .mn0, f .mn1, f .mn2] else []) := by
  rw [updateWrites, List.map_append, List.map_append, map_vecWrites, map_vecWrites]
  simp only [List.mem_append, List.map_cons, List.map_nil]
  tauto

@[simp] theorem setDegen_quat (s : State) (b : Bool) : (s.setDegen b).quat = s.quat := rfl
@[simp] theorem setDegen_normAccel (s : State) (b : Bool) : (s.setDegen b).normAccel = s.normAccel := rfl
@[simp] theorem setDegen_normMag (s : State) (b : Bool) : (s.setDegen b).normMag = s.normMag := rfl

@[simp] theorem setQuat_quat (s : State) (q : Quat Scalar) : (s.setQuat q).quat = q := by
  simp [State.quat, State.setQuat]

@[simp] theorem setQuat_normAccel (s : State) (q : Quat Scalar) : (s.setQuat q).normAccel = s.normAccel := by
  simp [State.normAccel, State.setQuat]

@[simp] theorem setQuat_normMag (s : State) (q : Quat Scalar) : (s.setQuat q).normMag = s.normMag := by
  simp [State.normMag, State.setQuat]

@[simp] theorem setNormAccel_normAccel (s : State) (v : Option (Vec3 Scalar)) :
    (s.setNormAccel v).normAccel = v.getD s.normAccel := by
  cases v with
  | none => rfl
  | some v => simp [State.normAccel, State.setNormAccel]

@[simp] theorem setNormAccel_normMag (s : State) (v : Option (Vec3 Scalar)) :
    (s.setNormAccel v).normMag = s.normMag := by
  cases v with
  | none => rfl
  | some v => simp [State.normMag, State.setNormAccel]

@[simp] theorem setNormMag_normAccel (s : State) (v : Option (Vec3 Scalar)) :
    (s.setNormMag v).normAccel = s.normAccel := by
  cases v with
  | none => rfl
  | some v => simp [State.normAccel, State.setNormMag]

@[simp] theorem setNormMag_normMag (s : State) (v : Option (Vec3 Scalar)) :
    (s.setNormMag v).normMag = v.getD s.normMag := by
  cases v with
  | none => rfl
  | some v => simp [State.normMag, State.setNormMag]

@[simp] theorem putUpdate_quat (s : State) (u : UpdateResult Scalar) : (s.putUpdate u).quat = u.quat := by
  rw [State.putUpdate, setDegen_quat, setQuat_quat]

@[simp] theorem putUpdate_normAccel (s : State) (u : UpdateResult Scalar) :
    (s.putUpdate u).normAccel = u.accel.getD s.normAccel := by
  rw [State.putUpdate, setDegen_normAccel, setQuat_normAccel, setNormMag_normAccel, setNormAccel_normAccel]

@[simp] theorem putUpdate_normMag (s : State) (u : UpdateResult Scalar) :
    (s.putUpdate u).normMag = u.mag.getD s.normMag := by
  rw [State.putUpdate, setDegen_normMag, setQuat_normMag, setNormMag_normMag, setNormAccel_normMag]

@[simp] theorem putUpdate_degenFlag (s : State) (u : UpdateResult Scalar) : (s.putUpdate u).degenFlag = u.degen := by
  rw [State.putUpdate, degenFlag_setDegen]

/-- DEGEN is the one bit of STATUS that UPDATE writes. -/
theorem putUpdate_status_of_ne (s : State) (u : UpdateResult Scalar) {k : Nat} (hk : k ≠ 1) :
    (s.putUpdate u).status.getLsbD k = s.status.getLsbD k := by
  rw [State.putUpdate, setDegen_status, getLsbD_statusWithBit _ _ _ (by decide), if_neg (show k ≠ degenBit from hk),
    setQuat_status, setNormMag_status, setNormAccel_status]

theorem putUpdate_scalar_of_notMem (s : State) (u : UpdateResult Scalar) {r : SReg}
    (hr : r ∉ [SReg.q0, .q1, .q2, .q3, .an0, .an1, .an2, .mn0, .mn1, .mn2]) :
    (s.putUpdate u).scalar r = s.scalar r := by
  rw [putUpdate_eq, setDegen_scalar]
  refine scalar_setScalars_of_notMem _ _ _ fun hmem => hr ?_
  have hsub : ∀ (done : Bool) (rs : List SReg), r ∈ (if done then rs else []) → r ∈ rs := by
    intro done rs
    cases done <;> simp
  have hmem := List.mem_append.mp ((mem_updateWrites_map id u r).mp hmem)
  rw [List.mem_append] at hmem
  have hall := hmem.imp (Or.imp_right (hsub _ _)) (hsub _ _)
  rwa [← List.mem_append, ← List.mem_append] at hall

/-- The marks after an UPDATE: the quaternion, and the vectors whose steps were done. -/
theorem putUpdate_marks (s : State) (u : UpdateResult Scalar) : (s.putUpdate u).marks s
    ([Reg.scalar .q0, Reg.scalar .q1, Reg.scalar .q2, Reg.scalar .q3]
      ++ (if u.accel.isSome then [Reg.scalar .an0, Reg.scalar .an1, Reg.scalar .an2] else [])
      ++ (if u.mag.isSome then [Reg.scalar .mn0, Reg.scalar .mn1, Reg.scalar .mn2] else [])) := by
  intro r
  rw [putUpdate_eq, setDegen_isWritten, isWritten_setScalars,
    decide_eq_decide.mpr (mem_updateWrites_map Reg.scalar u r)]

/-- UPDATE changes the scalar registers, STATUS and the marks alone. -/
theorem putUpdate_frame (s : State) (u : UpdateResult Scalar) :
    { s.putUpdate u with scalars := s.scalars, status := s.status, written := s.written } = s := by
  rw [putUpdate_eq]
  exact congrArg (fun t : State => { t with status := s.status }) (setScalars_frame s (updateWrites u))

/-! ### What an UPDATE computes -/

theorem updateResult_quat {T : Type} (N : Num T) (a g m : Vec3 T) (dt : T) (q : Quat T) :
    (updateResult N a g m dt q).quat = normalizeQuat N (integrate N q (quatDerivative N q (gyroRates N g)) dt) := rfl

theorem updateResult_accel {T : Type} (N : Num T) (a g m : Vec3 T) (dt : T) (q : Quat T) :
    (updateResult N a g m dt q).accel = normalizeVec N a := rfl

theorem updateResult_degen {T : Type} (N : Num T) (a g m : Vec3 T) (dt : T) (q : Quat T) :
    (updateResult N a g m dt q).degen = (N.isZero (vecMagnitude N a) || N.isZero (vecMagnitude N m)) := by
  cases ha : N.isZero (vecMagnitude N a) <;> cases hm : N.isZero (vecMagnitude N m) <;>
    simp [updateResult, normalizeMag, normalizeVec, ha, hm]

theorem normalizeVec_eq {T : Type} (N : Num T) (v : Vec3 T) : normalizeVec N v =
    if N.isZero (vecMagnitude N v) then none
    else some ⟨N.div v.x (vecMagnitude N v), N.div v.y (vecMagnitude N v), N.div v.z (vecMagnitude N v)⟩ := rfl

/-- The magnetometer is normalized where neither magnitude is zero (rule R175). -/
theorem updateResult_mag {T : Type} (N : Num T) (a g m : Vec3 T) (dt : T) (q : Quat T) :
    (updateResult N a g m dt q).mag =
      if N.isZero (vecMagnitude N a) || N.isZero (vecMagnitude N m) then none
      else some ⟨N.div m.x (vecMagnitude N m), N.div m.y (vecMagnitude N m), N.div m.z (vecMagnitude N m)⟩ := by
  have h : (updateResult N a g m dt q).mag = normalizeMag N (normalizeVec N a) m := rfl
  rw [h, normalizeVec_eq]
  cases N.isZero (vecMagnitude N a)
  · exact normalizeVec_eq N m
  · rfl

theorem getD_ite_none {α : Type} (c : Prop) [Decidable c] (a d : α) :
    (if c then none else some a).getD d = if c then d else a := by
  split <;> rfl

theorem ite_isSome_ite_none {α β : Type} (c : Prop) [Decidable c] (a : α) (x y : β) :
    (if (if c then none else some a).isSome then x else y) = if c then y else x := by
  by_cases h : c <;> simp [h]

/-- Settles O47: the seven steps, then the writes. -/
theorem updateFollowsSevenSteps : Obligations.UpdateFollowsSevenSteps := by
  unfold Obligations.UpdateFollowsSevenSteps
  refine ⟨by decide, fun s h => ?_⟩
  intro S d2r wx wy wz d0 d1 d2 d3 na nm p0 p1 p2 p3 n
  have hna : vecMagnitude num s.accel = na := rfl
  have hnm : vecMagnitude num s.mag = nm := rfl
  have hmarks := putUpdate_marks s (updateResult num s.accel s.gyro s.mag (s.scalar .dt) s.quat)
  rw [updateResult_accel, updateResult_mag, normalizeVec_eq, hna, hnm, ite_isSome_ite_none,
    ite_isSome_ite_none] at hmarks
  refine ⟨_, exec_update_next h, ?_, ?_, ?_, ?_, fun r hr => putUpdate_scalar_of_notMem _ _ hr,
    fun k hk => putUpdate_status_of_ne _ _ hk, hmarks, putUpdate_frame _ _⟩
  · rw [putUpdate_quat, updateResult_quat]
    rfl
  · rw [putUpdate_normAccel, updateResult_accel, normalizeVec_eq, getD_ite_none]
    rfl
  · rw [putUpdate_normMag, updateResult_mag, getD_ite_none]
    rfl
  · rw [putUpdate_degenFlag, updateResult_degen]
    rfl

end Sys2Proof.Machine
end

section
/-! The magnitudes of binary32 in rising order, and the rounding of a real number of units to one of them: the facts
that the statements on arithmetic, the square root, `ofDec` and the norm share. Units are those of `b32Units`,
2^-149. -/

namespace Sys2Proof.Machine

/-! ### The magnitudes rise -/

/-- A significand `m` and an exponent `e` name the magnitude of place `e * 2^23 + m`: `m` has 24 bits, fewer only where
`e` is 0; one more than the largest significand names the next magnitude too. -/
def significandFits (e m : Nat) : Prop := m < 2 ^ 24 ∧ (e = 0 ∨ 2 ^ 23 ≤ m)

theorem b32Units_place {e m : Nat} (hm : m ≤ 2 ^ 24) (he : e = 0 ∨ 2 ^ 23 ≤ m) :
    b32Units (e * 2 ^ 23 + m) = m * 2 ^ e := by
  by_cases hsub : m < 2 ^ 23
  · obtain rfl : e = 0 := by omega
    rw [Nat.zero_mul, Nat.zero_add, b32Units_of_subnormal hsub, pow_zero, Nat.mul_one]
  · rw [b32Units_of_normal (by omega)]
    by_cases htop : m = 2 ^ 24
    · have hdiv : (e * 2 ^ 23 + m) / 2 ^ 23 - 1 = e + 1 := by omega
      have hmod : (e * 2 ^ 23 + m) % 2 ^ 23 = 0 := by omega
      rw [hdiv, hmod, htop]
      ring
    · have hdiv : (e * 2 ^ 23 + m) / 2 ^ 23 - 1 = e := by omega
      have hmod : 2 ^ 23 + (e * 2 ^ 23 + m) % 2 ^ 23 = m := by omega
      rw [hdiv, hmod]

theorem b32Units_of_fits {e m : Nat} (h : significandFits e m) : b32Units (e * 2 ^ 23 + m) = m * 2 ^ e :=
  b32Units_place h.1.le h.2

theorem b32Units_succ_of_fits {e m : Nat} (h : significandFits e m) :
    b32Units (e * 2 ^ 23 + m + 1) = (m + 1) * 2 ^ e := by
  obtain ⟨hm, he⟩ := h
  rw [Nat.add_assoc]
  exact b32Units_place (Nat.succ_le_of_lt hm) (he.imp_right Nat.le_succ_of_le)

theorem exists_significand (c : Nat) : ∃ e m, significandFits e m ∧ c = e * 2 ^ 23 + m := by
  by_cases h : c < 2 ^ 23
  · exact ⟨0, c, ⟨by omega, .inl rfl⟩, by omega⟩
  · exact ⟨c / 2 ^ 23 - 1, 2 ^ 23 + c % 2 ^ 23, ⟨by omega, .inr (by omega)⟩, by omega⟩

theorem b32Units_strictMono : StrictMono b32Units := by
  refine strictMono_nat_of_lt_succ fun c => ?_
  obtain ⟨e, m, h, rfl⟩ := exists_significand c
  rw [b32Units_of_fits h, b32Units_succ_of_fits h]
  exact Nat.mul_lt_mul_of_pos_right (Nat.lt_succ_self m) (Nat.two_pow_pos e)

/-- Neighbouring magnitudes are apart by at most one unit and 2^-23 of the lower one. -/
theorem b32Units_succ_le (c : Nat) : 2 ^ 23 * b32Units (c + 1) ≤ 2 ^ 23 * b32Units c + b32Units c + 2 ^ 23 := by
  obtain ⟨e, m, h, rfl⟩ := exists_significand c
  rw [b32Units_of_fits h, b32Units_succ_of_fits h]
  obtain ⟨-, rfl | hm⟩ := h
  · omega
  · have := Nat.mul_le_mul_right (2 ^ e) hm
    linarith

@[simp] theorem b32Units_zero : b32Units 0 = 0 := rfl

/-- The place after the largest finite one would hold 2^128. -/
theorem b32Units_top : b32Units 0x7F800000 = 2 ^ 25 * 2 ^ 252 := by decide +kernel

theorem b32Units_largest : b32Units 0x7F7FFFFF = (2 ^ 25 - 2) * 2 ^ 252 := by decide +kernel

/-! ### Rounding a real number of units to a place -/

/-- The place `b` is that of the greatest magnitude up to `r` units. -/
def placeBelow (r : ℝ) (b : Nat) : Prop := b32Units b ≤ r ∧ r < b32Units (b + 1)

/-- `c` is the place `r` units round to, to nearest with ties to the even place, in a format without a largest
exponent. -/
def placeNearest (r : ℝ) (c : Nat) : Prop :=
  ∃ b, placeBelow r b ∧
    ((c = b ∧ (2 * r < b32Units b + b32Units (b + 1) ∨ 2 * r = b32Units b + b32Units (b + 1) ∧ b % 2 = 0)) ∨
      (c = b + 1 ∧ (b32Units b + b32Units (b + 1) < 2 * r ∨ 2 * r = b32Units b + b32Units (b + 1) ∧ b % 2 = 1)))

theorem b32Units_le_cast {a b : Nat} (h : a ≤ b) : (b32Units a : ℝ) ≤ b32Units b :=
  Nat.cast_le.mpr (b32Units_strictMono.monotone h)

theorem placeBelow_of_fits {e m : Nat} (h : significandFits e m) {r : ℝ} (hlo : (m : ℝ) * 2 ^ e ≤ r)
    (hhi : r < ((m : ℝ) + 1) * 2 ^ e) : placeBelow r (e * 2 ^ 23 + m) := by
  unfold placeBelow
  rw [b32Units_of_fits h, b32Units_succ_of_fits h]
  push_cast
  exact ⟨hlo, hhi⟩

/-- A magnitude up to `r` has a place up to that below `r`, and a greater magnitude a greater place. -/
theorem placeBelow.le_iff {r : ℝ} {b c : Nat} (h : placeBelow r b) : c ≤ b ↔ (b32Units c : ℝ) ≤ r := by
  obtain ⟨hlo, hhi⟩ := h
  constructor
  · intro hc
    exact (b32Units_le_cast hc).trans hlo
  · intro hc
    by_contra hgt
    have := b32Units_le_cast (show b + 1 ≤ c by omega)
    linarith

theorem placeNearest_zero : placeNearest 0 0 :=
  ⟨0, ⟨by simp, by simp [b32Units]⟩, .inl ⟨rfl, .inl (by simp [b32Units])⟩⟩

/-- A magnitude rounds to itself. -/
theorem placeNearest_units {c c' : Nat} (h : placeNearest (b32Units c) c') : c' = c := by
  obtain ⟨b, hb, hc'⟩ := h
  have hcb : c ≤ b := hb.le_iff.mpr le_rfl
  have hbc : b ≤ c := b32Units_strictMono.le_iff_le.mp (Nat.cast_le.mp hb.1)
  obtain rfl : c = b := hcb.antisymm hbc
  have hgap : (b32Units c : ℝ) < b32Units (c + 1) := hb.2
  obtain ⟨rfl, -⟩ | ⟨-, h | ⟨h, -⟩⟩ := hc'
  · rfl
  · linarith
  · linarith

/-- No magnitude is nearer than the one rounded to; where another is as near, the place rounded to is even. -/
theorem placeNearest.nearest {r : ℝ} {c : Nat} (h : placeNearest r c) (c' : Nat) :
    |(b32Units c : ℝ) - r| ≤ |(b32Units c' : ℝ) - r| ∧
      (|(b32Units c : ℝ) - r| = |(b32Units c' : ℝ) - r| → c' ≠ c → c % 2 = 0) := by
  obtain ⟨b, ⟨hlo, hhi⟩, hc⟩ := h
  have hbelow : |(b32Units b : ℝ) - r| = r - b32Units b := by rw [abs_sub_comm]; exact abs_of_nonneg (by linarith)
  have habove : |(b32Units (b + 1) : ℝ) - r| = b32Units (b + 1) - r := abs_of_pos (by linarith)
  obtain hc' | hc' : c' ≤ b ∨ b + 1 ≤ c' := by omega
  · have hle := b32Units_le_cast hc'
    have habs : |(b32Units c' : ℝ) - r| = r - b32Units c' := by rw [abs_sub_comm]; exact abs_of_nonneg (by linarith)
    obtain ⟨rfl, hcmp⟩ | ⟨rfl, hcmp⟩ := hc
    · rw [hbelow, habs]
      refine ⟨by linarith, fun heq hne => ?_⟩
      have := Nat.cast_lt (α := ℝ).mpr (b32Units_strictMono (show c' < c by omega))
      linarith
    · rw [habove, habs]
      obtain hlt | ⟨htie, hodd⟩ := hcmp
      · exact ⟨by linarith, fun heq => by linarith⟩
      · exact ⟨by linarith, fun _ _ => by omega⟩
  · have hle := b32Units_le_cast hc'
    have habs : |(b32Units c' : ℝ) - r| = b32Units c' - r := abs_of_nonneg (by linarith)
    obtain ⟨rfl, hcmp⟩ | ⟨rfl, hcmp⟩ := hc
    · rw [hbelow, habs]
      obtain hlt | ⟨htie, heven⟩ := hcmp
      · exact ⟨by linarith, fun heq => by linarith⟩
      · exact ⟨by linarith, fun _ _ => heven⟩
    · rw [habove, habs]
      refine ⟨by linarith, fun heq hne => ?_⟩
      have := Nat.cast_lt (α := ℝ).mpr (b32Units_strictMono (show b + 1 < c' by omega))
      linarith

/-- Half a unit, and a relative error of 2^-24. -/
theorem placeNearest.error_le {r : ℝ} {c : Nat} (h : placeNearest r c) :
    |(b32Units c : ℝ) - r| ≤ r / 2 ^ 24 + 1 / 2 := by
  obtain ⟨b, ⟨hlo, hhi⟩, hc⟩ := h
  have hgap : (2 ^ 23 * b32Units (b + 1) : ℝ) ≤ 2 ^ 23 * b32Units b + b32Units b + 2 ^ 23 := by
    exact_mod_cast b32Units_succ_le b
  rw [abs_le]
  obtain ⟨rfl, hcmp | ⟨hcmp, -⟩⟩ | ⟨rfl, hcmp | ⟨hcmp, -⟩⟩ := hc <;> constructor <;> linarith

/-- The first number of units that rounds to an infinity: `b32Overflow`, half a unit in the last place above the largest
finite magnitude. -/
def overflowUnits : ℝ := (2 ^ 25 - 1) * 2 ^ 252

/-- Twice the overflow threshold is the sum of the two magnitudes beside it. -/
theorem two_mul_overflowUnits : 2 * overflowUnits = b32Units 0x7F7FFFFF + b32Units 0x7F800000 := by
  rw [b32Units_top, b32Units_largest, overflowUnits]
  push_cast
  ring

/-- Rounding leaves the finite places exactly from the overflow threshold on. -/
theorem placeNearest.lt_top_iff {r : ℝ} {c : Nat} (h : placeNearest r c) : c < 0x7F800000 ↔ r < overflowUnits := by
  obtain ⟨b, hb, hc⟩ := h
  have hmid := two_mul_overflowUnits
  have hgap := Nat.cast_lt (α := ℝ).mpr (b32Units_strictMono (show 0x7F7FFFFF < 0x7F800000 by norm_num))
  obtain hlt | rfl | hgt := lt_trichotomy b 0x7F7FFFFF
  · have hr : r < overflowUnits := by
      have := b32Units_le_cast (show b + 1 ≤ 0x7F7FFFFF by omega)
      linarith [hb.2]
    exact iff_of_true (by omega) hr
  · obtain ⟨rfl, hcmp | ⟨-, heven⟩⟩ | ⟨rfl, hcmp⟩ := hc
    · exact iff_of_true (by norm_num) (by linarith)
    · omega
    · refine iff_of_false (by norm_num) ?_
      obtain hcmp | ⟨hcmp, -⟩ := hcmp <;> linarith
  · have hr : ¬r < overflowUnits := by
      have := hb.le_iff.mp (show 0x7F800000 ≤ b by omega)
      linarith
    exact iff_of_false (by omega) hr

/-- Rounding a significand: `r` lies from `m * 2^e` to below `(m + 1) * 2^e`, and goes up past the middle, or at the
middle from an odd significand. -/
theorem placeNearest_of_fits {e m : Nat} (h : significandFits e m) {r : ℝ} (hlo : (m : ℝ) * 2 ^ e ≤ r)
    (hhi : r < ((m : ℝ) + 1) * 2 ^ e) {up : Prop} [Decidable up]
    (hup : up ↔ (2 * m + 1 : ℝ) * 2 ^ e < 2 * r ∨ 2 * r = (2 * m + 1 : ℝ) * 2 ^ e ∧ m % 2 = 1) :
    placeNearest r (e * 2 ^ 23 + if up then m + 1 else m) := by
  have hmid : (b32Units (e * 2 ^ 23 + m) : ℝ) + b32Units (e * 2 ^ 23 + m + 1) = (2 * m + 1 : ℝ) * 2 ^ e := by
    rw [b32Units_of_fits h, b32Units_succ_of_fits h]
    push_cast
    ring
  have hparity : (e * 2 ^ 23 + m) % 2 = m % 2 := by omega
  refine ⟨e * 2 ^ 23 + m, placeBelow_of_fits h hlo hhi, ?_⟩
  rw [hmid, hparity]
  split
  · rename_i hyes
    exact .inr ⟨(Nat.add_assoc _ _ _).symm, hup.mp hyes⟩
  · rename_i hno
    rw [hup, not_or, not_lt, not_and] at hno
    refine .inl ⟨rfl, hno.1.lt_or_eq.imp_right fun heq => ⟨heq, ?_⟩⟩
    have := hno.2 heq
    omega

/-! ### The rounding of a quotient of natural numbers -/

/-- The exponent `b32RoundCode` and `b32DecRound` choose leaves a significand of 24 bits. -/
theorem significandFits_log2 (q : Nat) : significandFits (Nat.log2 q - 23) (q / 2 ^ (Nat.log2 q - 23)) := by
  have hq : q < 2 ^ (Nat.log2 q + 1) := Nat.lt_log2_self
  refine ⟨?_, ?_⟩
  · rw [Nat.div_lt_iff_lt_mul (Nat.two_pow_pos _), ← pow_add]
    exact hq.trans_le (Nat.pow_le_pow_right (by norm_num) (by omega))
  · by_cases h : Nat.log2 q ≤ 23
    · exact .inl (by omega)
    · have hne : q ≠ 0 := by
        rintro rfl
        exact h (by decide)
      right
      rw [Nat.le_div_iff_mul_le (Nat.two_pow_pos _), ← pow_add, show 23 + (Nat.log2 q - 23) = Nat.log2 q by omega]
      exact Nat.log2_self_le hne

/-- The significand of `x / y` units and its exponent. -/
theorem significandFits_div (x y : Nat) :
    significandFits (Nat.log2 (x / y) - 23) (x / (y * 2 ^ (Nat.log2 (x / y) - 23))) := by
  rw [← Nat.div_div_eq_div_mul]
  exact significandFits_log2 (x / y)

/-- A quotient lies between its floor at scale `2^e` and the next. -/
theorem div_bounds_cast (x e : Nat) {y : Nat} (hy : 0 < y) :
    ((x / (y * 2 ^ e) : Nat) : ℝ) * 2 ^ e ≤ x / y ∧ (x : ℝ) / y < (((x / (y * 2 ^ e) : Nat) : ℝ) + 1) * 2 ^ e := by
  have hyR : (0 : ℝ) < y := Nat.cast_pos.mpr hy
  have hpos : 0 < y * 2 ^ e := Nat.mul_pos hy (Nat.two_pow_pos e)
  have hlo : ((x / (y * 2 ^ e) * (y * 2 ^ e) : Nat) : ℝ) ≤ x := Nat.cast_le.mpr (Nat.div_mul_le_self _ _)
  have hhi : (x : ℝ) < (((x / (y * 2 ^ e)) + 1) * (y * 2 ^ e) : Nat) :=
    Nat.cast_lt.mpr (by rw [Nat.mul_comm]; exact Nat.lt_mul_div_succ x hpos)
  push_cast at hlo hhi
  rw [le_div_iff₀ hyR, div_lt_iff₀ hyR]
  constructor <;> linarith

theorem placeBelow_div (x : Nat) {y : Nat} (hy : 0 < y) :
    placeBelow (x / y) ((Nat.log2 (x / y) - 23) * 2 ^ 23 + x / (y * 2 ^ (Nat.log2 (x / y) - 23))) :=
  placeBelow_of_fits (significandFits_div x y) (div_bounds_cast x _ hy).1 (div_bounds_cast x _ hy).2

/-- `b32RoundCode` is rounding to nearest, ties to even. -/
theorem placeNearest_b32RoundCode (x : Nat) {y : Nat} (hy : 0 < y) : placeNearest (x / y) (b32RoundCode x y) := by
  have hyR : (0 : ℝ) < y := Nat.cast_pos.mpr hy
  obtain ⟨hlo, hhi⟩ := div_bounds_cast x (Nat.log2 (x / y) - 23) hy
  have hfits := significandFits_div x y
  refine placeNearest_of_fits hfits hlo hhi ?_
  generalize Nat.log2 (x / y) - 23 = e
  have hsplit : ((y * 2 ^ e * (x / (y * 2 ^ e)) + x % (y * 2 ^ e) : Nat) : ℝ) = x := by rw [Nat.div_add_mod]
  generalize x / (y * 2 ^ e) = m at *
  generalize x % (y * 2 ^ e) = k at *
  have h2r : 2 * ((x : ℝ) / y) = 2 * x / y := by ring
  rw [h2r, lt_div_iff₀ hyR, div_eq_iff hyR.ne', ← hsplit]
  have hlt : (y * 2 ^ e < 2 * k) ↔ ((y : ℝ) * 2 ^ e < 2 * k) := by exact_mod_cast Iff.rfl
  have heq : (2 * k = y * 2 ^ e) ↔ (2 * (k : ℝ) = y * 2 ^ e) := by exact_mod_cast Iff.rfl
  rw [hlt, heq]
  push_cast
  refine or_congr ⟨fun h => by linarith, fun h => by linarith⟩ (and_congr_left fun _ => ?_)
  exact ⟨fun h => by linarith, fun h => by linarith⟩

/-! ### The rounding of a square root -/

/-- The bits found one by one are those of the integer square root. -/
theorem isqrtBits_spec (k : Nat) {x r : Nat} (hlo : r * r ≤ x) (hhi : x < (r + 2 ^ k) * (r + 2 ^ k)) :
    isqrtBits k x r * isqrtBits k x r ≤ x ∧ x < (isqrtBits k x r + 1) * (isqrtBits k x r + 1) := by
  induction k generalizing r with
  | zero => exact ⟨hlo, hhi⟩
  | succ k ih =>
    simp only [isqrtBits]
    split
    · rename_i h
      refine ih h ?_
      rwa [Nat.add_assoc, ← two_mul, ← pow_succ']
    · rename_i h
      exact ih hlo (by omega)

/-- Rounding the square root of `w`: its significand `m` squared, at scale `4^e`, is the last up to `w`. -/
theorem placeNearest_sqrt_of_fits {e m w : Nat} (h : significandFits e m) (hlo : m * m * 4 ^ e ≤ w)
    (hhi : w < (m + 1) * (m + 1) * 4 ^ e) :
    placeNearest √(w : ℝ) (e * 2 ^ 23 + if (2 * m + 1) * (2 * m + 1) * 4 ^ e < 4 * w ∨
      ((2 * m + 1) * (2 * m + 1) * 4 ^ e = 4 * w ∧ m % 2 = 1) then m + 1 else m) := by
  have hfour : (4 : ℝ) ^ e = (2 ^ e) ^ 2 := by rw [← pow_mul, mul_comm, pow_mul]; norm_num
  have hroot : ∀ k : Nat, √((k * k * 4 ^ e : Nat) : ℝ) = k * 2 ^ e := fun k => by
    push_cast
    rw [hfour, show (k * k * (2 ^ e) ^ 2 : ℝ) = (k * 2 ^ e) ^ 2 by ring, Real.sqrt_sq (by positivity)]
  have htwo : √((4 * w : Nat) : ℝ) = 2 * √w := by
    push_cast
    rw [Real.sqrt_mul (by norm_num), show (4 : ℝ) = 2 ^ 2 by norm_num, Real.sqrt_sq (by norm_num)]
  have hlt : ∀ k l : Nat, √(k : ℝ) < √l ↔ k < l := fun k l =>
    (Real.sqrt_lt_sqrt_iff (Nat.cast_nonneg k)).trans Nat.cast_lt
  have heq : ∀ k l : Nat, √(k : ℝ) = √l ↔ k = l := fun k l =>
    (Real.sqrt_inj (Nat.cast_nonneg k) (Nat.cast_nonneg l)).trans Nat.cast_inj
  refine placeNearest_of_fits h ?_ ?_ ?_
  · rw [← hroot m]
    exact Real.sqrt_le_sqrt (Nat.cast_le.mpr hlo)
  · have hnext := hroot (m + 1)
    push_cast at hnext
    rw [← hnext]
    exact_mod_cast (hlt _ _).mpr hhi
  · have hodd := hroot (2 * m + 1)
    push_cast at hodd
    rw [← hodd, ← htwo]
    exact_mod_cast (or_congr (hlt _ _) (and_congr_left' ((heq _ _).trans eq_comm))).symm

/-- A number of units `w` with at least 46 bits has a root of 24 bits at scale `2^e`, for the `e` that `b32SqrtCode`
chooses. -/
theorem sqrt_significand {w : Nat} (hw : 2 ^ 46 ≤ w) :
    let e := Nat.log2 w / 2 - 23
    let m := isqrtBits 25 (w / 4 ^ e) 0
    significandFits e m ∧ m * m * 4 ^ e ≤ w ∧ w < (m + 1) * (m + 1) * 4 ^ e := by
  have hw0 : w ≠ 0 := (lt_of_lt_of_le (by norm_num) hw).ne'
  have hlog : 46 ≤ Nat.log2 w := (Nat.le_log2 hw0).mpr hw
  obtain ⟨e, he⟩ : ∃ e, Nat.log2 w / 2 = e + 23 := ⟨Nat.log2 w / 2 - 23, by omega⟩
  have hbits : 2 ^ 46 * 2 ^ (2 * e) ≤ w ∧ w < 2 ^ 48 * 2 ^ (2 * e) := by
    rw [← pow_add, ← pow_add]
    exact ⟨(Nat.pow_le_pow_right (by norm_num) (by omega)).trans (Nat.log2_self_le hw0),
      Nat.lt_log2_self.trans_le (Nat.pow_le_pow_right (by norm_num) (by omega))⟩
  have hpow : 2 ^ (2 * e) = 4 ^ e := pow_mul 2 2 e
  have hpos : 0 < 4 ^ e := Nat.pow_pos (by norm_num)
  rw [hpow, ← Nat.le_div_iff_mul_le hpos, ← Nat.div_lt_iff_lt_mul hpos] at hbits
  obtain ⟨hqlo, hqhi⟩ := hbits
  rw [he, Nat.add_sub_cancel]
  dsimp only
  obtain ⟨hlo, hhi⟩ := isqrtBits_spec 25 (x := w / 4 ^ e) (r := 0) (Nat.zero_le _) (hqhi.trans_le (by norm_num))
  rw [← Nat.le_div_iff_mul_le hpos, ← Nat.div_lt_iff_lt_mul hpos]
  generalize isqrtBits 25 (w / 4 ^ e) 0 = m at *
  exact ⟨⟨by nlinarith, .inr (by nlinarith)⟩, hlo, hhi⟩

/-- `b32SqrtCode` rounds the square root of `u` units, `√(u * 2^149)` of them, to nearest, ties to even. -/
theorem placeNearest_b32SqrtCode {u : Nat} (hu : 0 < u) :
    placeNearest √((u * b32UnitsPerOne : Nat) : ℝ) (b32SqrtCode u) := by
  have hw : 2 ^ 46 ≤ u * b32UnitsPerOne :=
    (Nat.pow_le_pow_right (by norm_num) (by norm_num)).trans (Nat.le_mul_of_pos_left b32UnitsPerOne hu)
  obtain ⟨hfits, hlo, hhi⟩ := sqrt_significand hw
  exact placeNearest_sqrt_of_fits hfits hlo hhi

end Sys2Proof.Machine
end

section
/-! Correct rounding of a real number to a scalar, and that each operation of binary32 is one (rule R7). -/

namespace Sys2Proof.Machine

/-! ### Exact values -/

/-- The sign of a scalar as a factor. -/
def signFactor (neg : Bool) : ℝ := if neg then -1 else 1

@[simp] theorem signFactor_false : signFactor false = 1 := rfl
@[simp] theorem signFactor_true : signFactor true = -1 := rfl

theorem signFactor_mul (s t : Bool) : signFactor s * signFactor t = signFactor (s != t) := by
  cases s <;> cases t <;> simp

theorem signFactor_div (s t : Bool) : signFactor s / signFactor t = signFactor (s != t) := by
  cases s <;> cases t <;> simp

theorem signFactor_not (s : Bool) : signFactor (!s) = -signFactor s := by cases s <;> simp

@[simp] theorem abs_signFactor (s : Bool) : |signFactor s| = 1 := by cases s <;> simp

/-- The exact value of a number of units. -/
noncomputable def unitsValue (r : ℝ) : ℝ := r / 2 ^ 149

@[simp] theorem unitsValue_zero : unitsValue 0 = 0 := zero_div _

theorem unitsValue_le_iff {a b : ℝ} : unitsValue a ≤ unitsValue b ↔ a ≤ b :=
  div_le_div_iff_of_pos_right (by positivity)

theorem unitsValue_lt_iff {a b : ℝ} : unitsValue a < unitsValue b ↔ a < b :=
  div_lt_div_iff_of_pos_right (by positivity)

theorem unitsValue_inj {a b : ℝ} : unitsValue a = unitsValue b ↔ a = b := div_left_inj' (by positivity)

theorem unitsValue_nonneg {r : ℝ} (hr : 0 ≤ r) : 0 ≤ unitsValue r := div_nonneg hr (by positivity)

theorem unitsValue_pos {r : ℝ} (hr : 0 < r) : 0 < unitsValue r := div_pos hr (by positivity)

theorem b32Signed_cast (neg : Bool) (c : Nat) : (b32Signed neg c : ℝ) = signFactor neg * b32Units c := by
  cases neg <;> simp [b32Signed]

theorem b32Val_fin_rat (neg : Bool) (c : Fin 0x7F800000) : b32Val (.fin neg c) = b32Signed neg c.val / 2 ^ 149 := by
  rw [b32Val, Rat.mkRat_eq_div, b32UnitsPerOne]
  norm_cast

theorem b32Val_fin (neg : Bool) (c : Fin 0x7F800000) :
    (b32Val (.fin neg c) : ℝ) = signFactor neg * unitsValue (b32Units c.val) := by
  rw [b32Val_fin_rat]
  push_cast
  rw [b32Signed_cast, unitsValue]
  ring

theorem b32Val_negate (v : Scalar) : b32Val (b32Negate v) = -b32Val v := by
  cases v with
  | nan => simp [b32Negate, b32Val]
  | inf neg => simp [b32Negate, b32Val]
  | fin neg c =>
    rw [b32Negate, b32Val_fin_rat, b32Val_fin_rat]
    cases neg <;> simp [b32Signed, neg_div]

/-! ### Rounding a real number to a scalar -/

/-- `v` is `x` rounded to binary32, to nearest with ties to even, and an infinity past the finite values (rule R7). -/
def roundsTo (x : ℝ) (v : Scalar) : Prop :=
  ∃ neg r c, 0 ≤ r ∧ x = signFactor neg * unitsValue r ∧ placeNearest r c ∧ v = b32OfCode neg c

theorem abs_signFactor_mul_unitsValue (neg : Bool) {r : ℝ} (hr : 0 ≤ r) :
    |signFactor neg * unitsValue r| = unitsValue r := by
  rw [abs_mul, abs_signFactor, one_mul]
  exact abs_of_nonneg (unitsValue_nonneg hr)

theorem b32Overflow_cast : ((b32Overflow : Rat) : ℝ) = unitsValue overflowUnits := by
  unfold b32Overflow unitsValue overflowUnits
  push_cast
  norm_num

theorem unitsValue_lt_overflow {r : ℝ} : unitsValue r < b32Overflow ↔ r < overflowUnits := by
  rw [b32Overflow_cast, unitsValue_lt_iff]

/-- The distance to a scalar's exact value is that of the units where the signs agree, and no less than the distance to
zero where they differ. -/
theorem abs_b32Val_sub_same (neg : Bool) (c : Fin 0x7F800000) (r : ℝ) :
    |(b32Val (.fin neg c) : ℝ) - signFactor neg * unitsValue r| = unitsValue |(b32Units c.val : ℝ) - r| := by
  rw [b32Val_fin, ← mul_sub, abs_mul, abs_signFactor, one_mul]
  unfold unitsValue
  rw [← sub_div, abs_div, abs_of_pos (show (0 : ℝ) < 2 ^ 149 by positivity)]

theorem abs_b32Val_sub_opposite (neg : Bool) (c : Fin 0x7F800000) {r : ℝ} (hr : 0 ≤ r) :
    |(b32Val (.fin (!neg) c) : ℝ) - signFactor neg * unitsValue r| = unitsValue (b32Units c.val + r) := by
  rw [b32Val_fin, signFactor_not, neg_mul, ← neg_add', abs_neg, ← mul_add]
  have hsum : unitsValue (b32Units c.val) + unitsValue r = unitsValue (b32Units c.val + r) := (add_div _ _ _).symm
  rw [hsum]
  exact abs_signFactor_mul_unitsValue neg (by positivity)

/-- Rounding the units of a magnitude to a finite place and keeping the sign gives the nearest value, the even one of
two. -/
theorem placeNearest.nearestEven {neg : Bool} {r : ℝ} (hr : 0 ≤ r) {c : Fin 0x7F800000} (h : placeNearest r c.val) :
    isNearestEven (signFactor neg * unitsValue r) (.fin neg c) := by
  refine ⟨neg, c, rfl, fun neg' c' => ?_⟩
  rw [abs_b32Val_sub_same]
  obtain rfl | rfl : neg' = neg ∨ neg' = !neg := by cases neg <;> cases neg' <;> simp
  · obtain ⟨hnear, htie⟩ := h.nearest c'.val
    rw [abs_b32Val_sub_same, unitsValue_le_iff, unitsValue_inj]
    refine ⟨hnear, fun he hne => htie he fun hc => hne ?_⟩
    rw [Fin.ext hc]
  · obtain ⟨hnear, htie⟩ := h.nearest 0
    rw [abs_b32Val_sub_opposite _ _ hr, unitsValue_le_iff, unitsValue_inj]
    have hzero : |((b32Units 0 : Nat) : ℝ) - r| = r := by simp [abs_of_nonneg hr]
    rw [hzero] at hnear htie
    have hpos : (0 : ℝ) ≤ b32Units c'.val := Nat.cast_nonneg _
    refine ⟨by linarith, fun he hne => ?_⟩
    by_cases hc : c.val = 0
    · rw [hc]
    · exact htie (by linarith) (Ne.symm hc)

theorem roundsTo.nearestEven {x : ℝ} {v : Scalar} (h : roundsTo x v) (hx : |x| < b32Overflow) :
    isNearestEven x v := by
  obtain ⟨neg, r, c, hr, rfl, hc, rfl⟩ := h
  rw [abs_signFactor_mul_unitsValue neg hr, unitsValue_lt_overflow, ← hc.lt_top_iff] at hx
  rw [b32OfCode_of_lt neg hx]
  exact placeNearest.nearestEven hr (c := ⟨c, hx⟩) hc

theorem roundsTo.overflow {x : ℝ} {v : Scalar} (h : roundsTo x v) (hx : b32Overflow ≤ |x|) :
    v = .inf (decide (x < 0)) := by
  obtain ⟨neg, r, c, hr, rfl, hc, rfl⟩ := h
  rw [abs_signFactor_mul_unitsValue neg hr, ← not_lt, unitsValue_lt_overflow, ← hc.lt_top_iff, not_lt] at hx
  rw [b32OfCode_of_le neg hx]
  have hpos : 0 < unitsValue r := by
    have hlarge : ¬r < overflowUnits := by
      rw [← hc.lt_top_iff]
      omega
    have h0 : 0 < overflowUnits := by
      unfold overflowUnits
      norm_num
    exact unitsValue_pos (by linarith)
  cases neg
  · simpa using hpos.le
  · simpa using hpos

/-- Below the overflow threshold the result is finite, off by at most 2^-24 of the value and half the least
magnitude. -/
theorem roundsTo.error_le {x : ℝ} {v : Scalar} (h : roundsTo x v) (hx : |x| < b32Overflow) :
    b32Finite v = true ∧ |(b32Val v : ℝ) - x| ≤ |x| / 2 ^ 24 + 1 / 2 ^ 150 := by
  obtain ⟨neg, r, c, hr, rfl, hc, rfl⟩ := h
  rw [abs_signFactor_mul_unitsValue neg hr, unitsValue_lt_overflow, ← hc.lt_top_iff] at hx
  rw [abs_signFactor_mul_unitsValue neg hr, b32OfCode_of_lt neg hx, abs_b32Val_sub_same]
  refine ⟨rfl, ?_⟩
  have herr := div_le_div_of_nonneg_right hc.error_le (show (0 : ℝ) ≤ 2 ^ 149 by positivity)
  unfold unitsValue
  calc |(b32Units c : ℝ) - r| / 2 ^ 149 ≤ (r / 2 ^ 24 + 1 / 2) / 2 ^ 149 := herr
    _ = r / 2 ^ 149 / 2 ^ 24 + 1 / 2 ^ 150 := by ring

/-- A value of the format rounds to itself. -/
theorem roundsTo.exact {neg : Bool} {c : Fin 0x7F800000} {v : Scalar} (h : roundsTo (b32Val (.fin neg c)) v) :
    b32Finite v = true ∧ b32Val v = b32Val (.fin neg c) := by
  obtain ⟨neg', r, c', hr, hx, hc', rfl⟩ := h
  have hru : r = b32Units c.val := by
    have habs := congrArg abs hx
    rw [b32Val_fin, abs_signFactor_mul_unitsValue _ (Nat.cast_nonneg _), abs_signFactor_mul_unitsValue _ hr,
      unitsValue_inj] at habs
    exact habs.symm
  rw [hru] at hc'
  obtain rfl := placeNearest_units hc'
  rw [b32OfCode_of_lt neg' c.isLt]
  refine ⟨rfl, ?_⟩
  have hval : (b32Val (.fin neg' c) : ℝ) = b32Val (.fin neg c) := by rw [hx, hru, b32Val_fin]
  exact_mod_cast hval

theorem roundsTo_zero (neg : Bool) : roundsTo 0 (.fin neg 0) :=
  ⟨neg, 0, 0, le_rfl, by simp, placeNearest_zero, rfl⟩

/-- `b32OfUnits` rounds `x / y` units of the given sign. -/
theorem roundsTo_b32OfUnits (neg : Bool) (x : Nat) {y : Nat} (hy : 0 < y) :
    roundsTo (signFactor neg * unitsValue (x / y)) (b32OfUnits neg x y) :=
  ⟨neg, x / y, _, by positivity, rfl, placeNearest_b32RoundCode x hy, rfl⟩

/-! ### The operations on finite values -/

theorem b32UnitsPerOne_pos : 0 < b32UnitsPerOne := Nat.two_pow_pos 149

theorem b32UnitsPerOne_cast : (b32UnitsPerOne : ℝ) = 2 ^ 149 := by
  unfold b32UnitsPerOne
  norm_cast

theorem b32Units_pos {c : Nat} (h : c ≠ 0) : 0 < b32Units c := b32Units_strictMono (Nat.pos_of_ne_zero h)

theorem roundsTo_add (s t : Bool) (a b : Fin 0x7F800000) :
    roundsTo (b32Val (.fin s a) + b32Val (.fin t b)) (b32Add (.fin s a) (.fin t b)) := by
  have hexact : (b32Val (.fin s a) + b32Val (.fin t b) : ℝ) =
      unitsValue (b32Signed s a.val + b32Signed t b.val : Int) := by
    rw [b32Val_fin_rat, b32Val_fin_rat, unitsValue]
    push_cast
    ring
  rw [hexact]
  simp only [b32Add, b32AddFin]
  generalize b32Signed s a.val + b32Signed t b.val = z
  split
  · rename_i hz
    rw [hz, Int.cast_zero, unitsValue_zero]
    exact roundsTo_zero _
  · have h := roundsTo_b32OfUnits (decide (z < 0)) z.natAbs one_pos
    have hsign : signFactor (decide (z < 0)) * unitsValue ((z.natAbs : ℝ) / (1 : Nat)) = unitsValue z := by
      rw [Nat.cast_one, div_one, Nat.cast_natAbs, unitsValue, unitsValue]
      obtain hneg | hnn := lt_or_ge z 0
      · simp [hneg, abs_of_neg hneg, neg_div]
      · simp [not_lt.mpr hnn, abs_of_nonneg hnn]
    rwa [hsign] at h

theorem roundsTo_sub (s t : Bool) (a b : Fin 0x7F800000) :
    roundsTo (b32Val (.fin s a) - b32Val (.fin t b)) (b32Sub (.fin s a) (.fin t b)) := by
  have h := roundsTo_add s (!t) a b
  have hneg : b32Val (.fin (!t) b) = -b32Val (.fin t b) := b32Val_negate (.fin t b)
  rw [hneg, Rat.cast_neg, ← sub_eq_add_neg] at h
  exact h

theorem roundsTo_mul (s t : Bool) (a b : Fin 0x7F800000) :
    roundsTo (b32Val (.fin s a) * b32Val (.fin t b)) (b32Mul (.fin s a) (.fin t b)) := by
  have h := roundsTo_b32OfUnits (s != t) (b32Units a.val * b32Units b.val) b32UnitsPerOne_pos
  have hexact : (b32Val (.fin s a) * b32Val (.fin t b) : ℝ) =
      signFactor (s != t) * unitsValue ((b32Units a.val * b32Units b.val : Nat) / b32UnitsPerOne) := by
    rw [b32Val_fin, b32Val_fin, ← signFactor_mul, b32UnitsPerOne_cast]
    simp only [unitsValue]
    push_cast
    ring
  rwa [← hexact] at h

theorem roundsTo_div (s t : Bool) (a : Fin 0x7F800000) {b : Fin 0x7F800000} (hb : b.val ≠ 0) :
    roundsTo (b32Val (.fin s a) / b32Val (.fin t b)) (b32Div (.fin s a) (.fin t b)) := by
  have hpos := b32Units_pos hb
  have h := roundsTo_b32OfUnits (s != t) (b32Units a.val * b32UnitsPerOne) hpos
  have hexact : (b32Val (.fin s a) / b32Val (.fin t b) : ℝ) =
      signFactor (s != t) * unitsValue ((b32Units a.val * b32UnitsPerOne : Nat) / b32Units b.val) := by
    have hne : (b32Units b.val : ℝ) ≠ 0 := (Nat.cast_pos.mpr hpos).ne'
    rw [b32Val_fin, b32Val_fin, mul_div_mul_comm, signFactor_div]
    simp only [unitsValue]
    push_cast
    rw [b32UnitsPerOne_cast]
    field_simp
  rw [hexact]
  simpa only [b32Div, if_neg hb] using h

/-- The square root of a value that is not negative: of a zero it is that zero. -/
theorem roundsTo_sqrt {neg : Bool} {a : Fin 0x7F800000} (h : 0 ≤ b32Val (.fin neg a)) :
    roundsTo √(b32Val (.fin neg a) : ℝ) (b32Sqrt (.fin neg a)) := by
  have hnn : (0 : ℝ) ≤ b32Val (.fin neg a) := by exact_mod_cast h
  rw [b32Val_fin] at hnn ⊢
  by_cases ha : a.val = 0
  · simp only [b32Sqrt, ha, b32Units_zero]
    obtain rfl : a = 0 := Fin.ext ha
    simpa using roundsTo_zero neg
  · have hu := b32Units_pos ha
    have huv : 0 < unitsValue (b32Units a.val) := unitsValue_pos (Nat.cast_pos.mpr hu)
    obtain rfl : neg = false := by
      cases neg
      · rfl
      · rw [signFactor_true] at hnn
        linarith
    simp only [b32Sqrt, if_neg ha, Bool.false_eq_true, if_false]
    refine ⟨false, _, _, Real.sqrt_nonneg _, ?_, placeNearest_b32SqrtCode hu, rfl⟩
    push_cast
    rw [b32UnitsPerOne_cast, signFactor_false, one_mul, one_mul]
    unfold unitsValue
    have hsq : ((b32Units a.val : ℝ) * 2 ^ 149) = b32Units a.val / 2 ^ 149 * (2 ^ 149) ^ 2 := by field_simp
    rw [hsq, Real.sqrt_mul (by positivity), Real.sqrt_sq (by positivity)]
    field_simp

@[simp] theorem b32Neg_mul_fin (s t : Bool) (a b : Fin 0x7F800000) :
    b32Neg (b32Mul (.fin s a) (.fin t b)) = (s != t) := b32Neg_b32OfCode _ _

theorem b32Neg_div_fin (s t : Bool) (a : Fin 0x7F800000) {b : Fin 0x7F800000} (hb : b.val ≠ 0) :
    b32Neg (b32Div (.fin s a) (.fin t b)) = (s != t) := by
  simp only [b32Div, if_neg hb]
  exact b32Neg_b32OfCode _ _

/-! ### The statements on the operations -/

/-- What `roundsTo` says of a rational number, in the form the statements have. -/
theorem roundsTo.rat {x : Rat} {v : Scalar} (h : roundsTo (x : ℝ) v) :
    (|x| < b32Overflow → isNearestEven x v) ∧ (b32Overflow ≤ |x| → v = .inf (decide (x < 0))) := by
  have hneg : decide (x < 0) = decide ((x : ℝ) < 0) := decide_eq_decide.mpr Rat.cast_lt_zero.symm
  rw [hneg]
  exact ⟨fun hx => h.nearestEven (by exact_mod_cast hx), fun hx => h.overflow (by exact_mod_cast hx)⟩

/-- Settles O55: each operation rounds the exact result once. -/
theorem arithmeticIsCorrectlyRounded : Obligations.ArithmeticIsCorrectlyRounded := by
  unfold Obligations.ArithmeticIsCorrectlyRounded
  intro s t a b
  refine ⟨roundsTo.rat ?_, roundsTo.rat ?_, roundsTo.rat ?_, fun hb => ⟨roundsTo.rat ?_, b32Neg_div_fin s t a hb⟩,
    b32Neg_mul_fin s t a b⟩
  · rw [Rat.cast_add]
    exact roundsTo_add s t a b
  · rw [Rat.cast_sub]
    exact roundsTo_sub s t a b
  · rw [Rat.cast_mul]
    exact roundsTo_mul s t a b
  · rw [Rat.cast_div]
    exact roundsTo_div s t a hb

/-- A finite value is below 2^128. -/
theorem abs_b32Val_lt (v : Scalar) : |(b32Val v : ℝ)| < 2 ^ 128 := by
  cases v with
  | nan => simp [b32Val]
  | inf neg => simp [b32Val]
  | fin neg c =>
    rw [b32Val_fin, abs_signFactor_mul_unitsValue _ (Nat.cast_nonneg _), unitsValue, div_lt_iff₀ (by positivity),
      show (2 : ℝ) ^ 128 * 2 ^ 149 = ((2 ^ 24 * 2 ^ 253 : Nat) : ℝ) by norm_num]
    exact Nat.cast_lt.mpr (b32Units_lt c)

/-- A square root never overflows. -/
theorem sqrt_b32Val_lt_overflow (v : Scalar) : |√(b32Val v : ℝ)| < b32Overflow := by
  have hlt := (le_abs_self _).trans_lt (abs_b32Val_lt v)
  have hroot : √(b32Val v : ℝ) < 2 ^ 64 := by
    rw [Real.sqrt_lt' (by positivity), ← pow_mul]
    exact hlt
  rw [abs_of_nonneg (Real.sqrt_nonneg _), b32Overflow]
  push_cast
  linarith

/-- Settles O56: the root found bit by bit is rounded once, and never overflows. -/
theorem squareRootIsCorrectlyRounded : Obligations.SquareRootIsCorrectlyRounded := by
  unfold Obligations.SquareRootIsCorrectlyRounded
  intro neg a h
  exact (roundsTo_sqrt h).nearestEven (sqrt_b32Val_lt_overflow _)

/-! ### Zeros -/

/-- A zero is a finite value of exact value zero. -/
theorem b32IsZero_iff (v : Scalar) : b32IsZero v = true ↔ b32Finite v = true ∧ b32Val v = 0 := by
  cases v with
  | nan => simp [b32IsZero, b32Finite]
  | inf neg => simp [b32IsZero, b32Finite]
  | fin neg c =>
    have hu : b32Units c.val = 0 ↔ c.val = 0 := b32Units_strictMono.injective.eq_iff (b := 0)
    rw [b32Val_fin_rat, div_eq_zero_iff]
    cases neg <;> simp [b32IsZero, b32Finite, b32Signed, hu]

theorem b32Finite_iff (v : Scalar) : b32Finite v = true ↔ ∃ neg c, v = .fin neg c := by
  cases v <;> simp [b32Finite]

/-- Zero rounds to a zero. -/
theorem roundsTo.isZero {v : Scalar} (h : roundsTo 0 v) : b32IsZero v = true := by
  have hzero : b32Val b32Zero = 0 := ((b32IsZero_iff b32Zero).mp rfl).2
  rw [b32IsZero_iff, ← hzero]
  refine roundsTo.exact (neg := false) (c := 0) ?_
  rwa [← b32Zero, hzero, Rat.cast_zero]

/-- Settles O58: the exact product with a zero is zero, the exact sum with a zero is the other value, and both round to
themselves. -/
theorem zeroIsAbsorbingAndNeutral : Obligations.ZeroIsAbsorbingAndNeutral := by
  unfold Obligations.ZeroIsAbsorbingAndNeutral
  intro v z hv hz
  obtain ⟨hzfin, hz0⟩ := (b32IsZero_iff z).mp hz
  obtain ⟨s, a, rfl⟩ := (b32Finite_iff v).mp hv
  obtain ⟨t, b, rfl⟩ := (b32Finite_iff z).mp hzfin
  have hmul := roundsTo_mul t s b a
  have hmul' := roundsTo_mul s t a b
  have hadd := roundsTo_add s t a b
  have hadd' := roundsTo_add t s b a
  rw [hz0, Rat.cast_zero] at hmul hmul' hadd hadd'
  rw [zero_mul] at hmul
  rw [mul_zero] at hmul'
  rw [add_zero] at hadd
  rw [zero_add] at hadd'
  obtain ⟨hfin, hval⟩ := hadd.exact
  obtain ⟨hfin', hval'⟩ := hadd'.exact
  exact ⟨hmul.isZero, hmul'.isZero, hfin, hval, hfin', hval'⟩

/-! ### `ofDec` -/

/-- The finite value of a sign and a place, none past the last. -/
def finitePlace (neg : Bool) (c : Nat) : Option Scalar :=
  if h : c < 0x7F800000 then some (.fin neg ⟨c, h⟩) else none

theorem finitePlace_eq_some {neg : Bool} {c : Nat} {v : Scalar} :
    finitePlace neg c = some v ↔ ∃ h : c < 0x7F800000, v = .fin neg ⟨c, h⟩ := by
  unfold finitePlace
  split <;> simp_all [eq_comm]

theorem finitePlace_eq_none {neg : Bool} {c : Nat} : finitePlace neg c = none ↔ 0x7F800000 ≤ c := by
  unfold finitePlace
  split <;> simp <;> omega

/-- `c` is the place of a magnitude next to `r` units, and of `r` itself where it is a magnitude. -/
def placeBeside (r : ℝ) (c : Nat) : Prop := ∃ b, placeBelow r b ∧ (c = b ∨ c = b + 1 ∧ (b32Units b : ℝ) ≠ r)

/-- No magnitude lies between a number and one beside it, nor at the number unless it is that one. -/
theorem placeBeside.not_between {r : ℝ} {c : Nat} (h : placeBeside r c) (c' : Nat) :
    ¬(c < c' ∧ (b32Units c' : ℝ) ≤ r) ∧ ¬(r ≤ b32Units c' ∧ c' < c) := by
  obtain ⟨b, hb, hc⟩ := h
  rw [← hb.le_iff]
  refine ⟨by omega, fun ⟨hr, hlt⟩ => ?_⟩
  have hle := b32Units_le_cast (show c' ≤ b by omega)
  have heq : (b32Units b : ℝ) = r := hb.1.antisymm (hr.trans hle)
  obtain rfl | ⟨-, hne⟩ := hc
  · have := Nat.cast_lt (α := ℝ).mpr (b32Units_strictMono hlt)
    linarith
  · exact hne heq

/-- Up to a magnitude, no place beside a number is past that magnitude's. -/
theorem placeBeside.le_of_le {r : ℝ} {c d : Nat} (h : placeBeside r c) (hr : r ≤ b32Units d) : c ≤ d := by
  have := (h.not_between d).2
  by_contra hlt
  exact this ⟨hr, not_le.mp hlt⟩

/-- From a magnitude on, no place beside a number is before that magnitude's. -/
theorem placeBeside.le_of_ge {r : ℝ} {c d : Nat} (h : placeBeside r c) (hr : b32Units d ≤ r) : d ≤ c := by
  have := (h.not_between d).1
  by_contra hlt
  exact this ⟨not_le.mp hlt, hr⟩

/-- The units of a numeral, as `b32DecRound` and `b32OfDec` take them. -/
noncomputable def decUnits (r : Rat) : ℝ := (r.num.natAbs * b32UnitsPerOne : Nat) / r.den

theorem unitsValue_decUnits {r : Rat} (hr : 0 ≤ r) : unitsValue (decUnits r) = r := by
  have hnum : ((r.num.natAbs : Nat) : ℝ) = r.num := by
    rw [Nat.cast_natAbs, abs_of_nonneg (Rat.num_nonneg.mpr hr)]
  unfold unitsValue decUnits
  push_cast
  rw [hnum, b32UnitsPerOne_cast, mul_div_right_comm, mul_div_cancel_right₀ _ (by positivity)]
  exact (Rat.cast_def r).symm

/-- The place `b32DecRound` computes, of the floor or, from a number that is no magnitude, the next. -/
theorem placeBeside_div (x : Nat) {y : Nat} (hy : 0 < y) (up : Bool) :
    let e := Nat.log2 (x / y) - 23
    placeBeside (x / y) (e * 2 ^ 23 + x / (y * 2 ^ e) + (decide (x % (y * 2 ^ e) ≠ 0) && up).toNat) := by
  intro e
  have hfits : significandFits e (x / (y * 2 ^ e)) := significandFits_div x y
  refine ⟨_, placeBelow_div x hy, ?_⟩
  by_cases hgo : x % (y * 2 ^ e) ≠ 0 ∧ up = true
  · right
    have hne : (b32Units (e * 2 ^ 23 + x / (y * 2 ^ e)) : ℝ) ≠ x / y := by
      rw [b32Units_of_fits hfits, Ne, eq_div_iff (Nat.cast_ne_zero.mpr hy.ne')]
      norm_cast
      intro heq
      refine hgo.1 (Nat.mod_eq_zero_of_dvd ⟨x / (y * 2 ^ e), ?_⟩)
      calc x = x / (y * 2 ^ e) * 2 ^ e * y := heq.symm
        _ = y * 2 ^ e * (x / (y * 2 ^ e)) := by ring
    have hmove : (decide (x % (y * 2 ^ e) ≠ 0) && up) = true := by
      rw [Bool.and_eq_true, decide_eq_true_eq]
      exact hgo
    rw [hmove]
    exact ⟨rfl, hne⟩
  · left
    have hstay : (decide (x % (y * 2 ^ e) ≠ 0) && up) = false := by
      rw [← Bool.not_eq_true, Bool.and_eq_true, decide_eq_true_eq]
      exact hgo
    rw [hstay, Bool.toNat_false, Nat.add_zero]

/-- The conversion under either choice gives a magnitude beside the numeral. -/
theorem b32DecRound_beside (up neg : Bool) (r : Rat) :
    ∃ c, placeBeside (decUnits r) c ∧ b32DecRound up neg r = finitePlace neg c :=
  ⟨_, placeBeside_div _ r.den_pos up, (dif_place neg _ _).symm⟩

theorem b32OfDec_eq_finitePlace (neg : Bool) (r : Rat) :
    b32OfDec neg r = finitePlace neg (b32RoundCode (r.num.natAbs * b32UnitsPerOne) r.den) := rfl

theorem b32Val_pos_eq (c : Fin 0x7F800000) : (b32Val (.fin false c) : ℝ) = unitsValue (b32Units c.val) := by
  rw [b32Val_fin, signFactor_false, one_mul]

theorem b32Val_pos_lt_iff (c c' : Fin 0x7F800000) :
    b32Val (.fin false c) < b32Val (.fin false c') ↔ c.val < c'.val := by
  rw [← Rat.cast_lt (K := ℝ), b32Val_pos_eq, b32Val_pos_eq, unitsValue_lt_iff, Nat.cast_lt,
    b32Units_strictMono.lt_iff_lt]

theorem b32Val_pos_le_iff (c : Fin 0x7F800000) {r : Rat} (hr : 0 ≤ r) :
    b32Val (.fin false c) ≤ r ↔ (b32Units c.val : ℝ) ≤ decUnits r := by
  rw [← Rat.cast_le (K := ℝ), b32Val_pos_eq, ← unitsValue_decUnits hr, unitsValue_le_iff]

theorem le_b32Val_pos_iff (c : Fin 0x7F800000) {r : Rat} (hr : 0 ≤ r) :
    r ≤ b32Val (.fin false c) ↔ decUnits r ≤ b32Units c.val := by
  rw [← Rat.cast_le (K := ℝ), b32Val_pos_eq, ← unitsValue_decUnits hr, unitsValue_le_iff]

/-- 2^128, the magnitude after the largest finite one. -/
theorem top_le_decUnits {r : Rat} (h : 2 ^ 128 ≤ r) : (b32Units 0x7F800000 : ℝ) ≤ decUnits r := by
  have hr : (2 ^ 128 : ℝ) ≤ unitsValue (decUnits r) := by
    rw [unitsValue_decUnits (le_trans (by norm_num) h)]
    exact_mod_cast h
  rw [unitsValue, le_div_iff₀ (by positivity)] at hr
  rw [b32Units_top]
  refine le_trans (le_of_eq ?_) hr
  norm_num

/-- Whatever the configuration chooses: a neighbour with the numeral's sign, one up to the largest finite magnitude and
none from 2^128 on. -/
theorem b32DecRound_neighbour (up neg : Bool) {r : Rat} (hr : 0 ≤ r) :
    (∀ v, b32DecRound up neg r = some v → ∃ code, v = .fin neg code ∧
      ∀ code', let x := b32Val (.fin false code); let y := b32Val (.fin false code')
        ¬(x < y ∧ y ≤ r) ∧ ¬(r ≤ y ∧ y < x)) ∧
    (r ≤ b32Val (.fin false 0x7F7FFFFF) → b32DecRound up neg r ≠ none) ∧
    (2 ^ 128 ≤ r → b32DecRound up neg r = none) := by
  obtain ⟨c, hc, heq⟩ := b32DecRound_beside up neg r
  rw [heq]
  refine ⟨fun v hv => ?_, fun hle => ?_, fun hge => ?_⟩
  · obtain ⟨hlt, rfl⟩ := finitePlace_eq_some.mp hv
    refine ⟨_, rfl, fun c' => ?_⟩
    simp only [b32Val_pos_lt_iff, b32Val_pos_le_iff _ hr, le_b32Val_pos_iff _ hr]
    exact hc.not_between c'.val
  · have hlast : c ≤ 0x7F7FFFFF := hc.le_of_le ((le_b32Val_pos_iff _ hr).mp hle)
    rw [Ne, finitePlace_eq_none]
    omega
  · exact finitePlace_eq_none.mpr (hc.le_of_ge (top_le_decUnits hge))

/-- The conversion of rule R152 rounds to nearest, ties to even, and has no value from the overflow threshold on. -/
theorem b32OfDec_nearest (neg : Bool) {r : Rat} (hr : 0 ≤ r) :
    (r < b32Overflow → ∃ code, b32OfDec neg r = some (.fin neg code) ∧
      isNearestEven (if neg then -(r : ℝ) else (r : ℝ)) (.fin neg code)) ∧
    (b32Overflow ≤ r → b32OfDec neg r = none) := by
  have hnear : placeNearest (decUnits r) (b32RoundCode (r.num.natAbs * b32UnitsPerOne) r.den) :=
    placeNearest_b32RoundCode _ r.den_pos
  have hpos : 0 ≤ decUnits r := by
    unfold decUnits
    positivity
  have hsigned : (if neg then -(r : ℝ) else (r : ℝ)) = signFactor neg * unitsValue (decUnits r) := by
    rw [unitsValue_decUnits hr]
    cases neg <;> simp
  rw [b32OfDec_eq_finitePlace, hsigned]
  rw [← not_lt, ← Rat.cast_lt (K := ℝ), ← unitsValue_decUnits hr, unitsValue_lt_overflow, ← hnear.lt_top_iff]
  refine ⟨fun hlt => ⟨⟨_, hlt⟩, finitePlace_eq_some.mpr ⟨hlt, rfl⟩, placeNearest.nearestEven hpos hnear⟩, fun hge => ?_⟩
  exact finitePlace_eq_none.mpr (not_lt.mp hge)

/-- Settles O57: every choice of the configuration is a neighbour, and the conversion of rule R152 is one choice. -/
theorem ofDecRoundsToANeighbour : Obligations.OfDecRoundsToANeighbour := by
  unfold Obligations.OfDecRoundsToANeighbour
  exact ⟨fun neg r hr => b32DecRound_neighbour _ neg hr, fun neg r => ⟨rfl, b32OfDec_eq_b32DecRound neg r⟩,
    fun neg r hr => b32OfDec_nearest neg hr⟩

end Sys2Proof.Machine
end

section
/-! The norm of the quaternion after UPDATE: the error of each rounding of step 7, added up. -/

namespace Sys2Proof.Machine

/-- `v` is finite and its exact value is off `x` by at most `d`. -/
def closeWithin (d x : ℝ) (v : Scalar) : Prop := b32Finite v = true ∧ |(b32Val v : ℝ) - x| ≤ d

/-- One rounding of a number off `x` by at most `d` adds 2^-23 of a bound on `x`, where the bound is ordinary. -/
theorem roundsTo.closeWithin {z x d M : ℝ} {v : Scalar} (h : roundsTo z v) (hzx : |z - x| ≤ d) (hx : |x| ≤ M)
    (hd : d ≤ M / 2) (hlo : 1 / 4 ≤ M) (hhi : M ≤ 2 ^ 100) : closeWithin (d + M / 2 ^ 23) x v := by
  have hz : |z| ≤ M + d := by
    have := abs_add_le x (z - x)
    rw [add_sub_cancel] at this
    linarith
  have hover : |z| < b32Overflow := by
    unfold b32Overflow
    push_cast
    linarith
  obtain ⟨hfin, herr⟩ := h.error_le hover
  refine ⟨hfin, ?_⟩
  have htri := abs_sub_le (b32Val v : ℝ) z x
  linarith

theorem roundsTo_add_of_finite {v w : Scalar} (hv : b32Finite v = true) (hw : b32Finite w = true) :
    roundsTo (b32Val v + b32Val w) (b32Add v w) := by
  obtain ⟨s, a, rfl⟩ := (b32Finite_iff v).mp hv
  obtain ⟨t, b, rfl⟩ := (b32Finite_iff w).mp hw
  exact roundsTo_add s t a b

theorem roundsTo_mul_of_finite {v w : Scalar} (hv : b32Finite v = true) (hw : b32Finite w = true) :
    roundsTo (b32Val v * b32Val w) (b32Mul v w) := by
  obtain ⟨s, a, rfl⟩ := (b32Finite_iff v).mp hv
  obtain ⟨t, b, rfl⟩ := (b32Finite_iff w).mp hw
  exact roundsTo_mul s t a b

theorem roundsTo_sqrt_of_finite {v : Scalar} (hv : b32Finite v = true) (h : (0 : ℝ) ≤ b32Val v) :
    roundsTo √(b32Val v : ℝ) (b32Sqrt v) := by
  obtain ⟨s, a, rfl⟩ := (b32Finite_iff v).mp hv
  exact roundsTo_sqrt (by exact_mod_cast h)

theorem roundsTo_div_of_finite {v w : Scalar} (hv : b32Finite v = true) (hw : b32Finite w = true)
    (h : (b32Val w : ℝ) ≠ 0) : roundsTo (b32Val v / b32Val w) (b32Div v w) := by
  obtain ⟨s, a, rfl⟩ := (b32Finite_iff v).mp hv
  obtain ⟨t, b, rfl⟩ := (b32Finite_iff w).mp hw
  refine roundsTo_div s t a fun hb => h ?_
  rw [b32Val_fin, hb]
  simp

/-- The sum of two values close to nonnegative numbers with sum at most `M`. -/
theorem closeWithin.add {d e x y M : ℝ} {v w : Scalar} (hv : closeWithin d x v) (hw : closeWithin e y w) (hx : 0 ≤ x)
    (hy : 0 ≤ y) (hM : x + y ≤ M) (hd : d + e ≤ M / 2) (hlo : 1 / 4 ≤ M) (hhi : M ≤ 2 ^ 100) :
    closeWithin (d + e + M / 2 ^ 23) (x + y) (b32Add v w) := by
  obtain ⟨hvf, hvd⟩ := hv
  obtain ⟨hwf, hwe⟩ := hw
  refine (roundsTo_add_of_finite hvf hwf).closeWithin ?_ (by rwa [abs_of_nonneg (by linarith)]) hd hlo hhi
  rw [add_sub_add_comm]
  exact (abs_add_le _ _).trans (add_le_add hvd hwe)

/-- The square of a finite value. -/
theorem closeWithin_square {v : Scalar} {M : ℝ} (hv : b32Finite v = true) (hM : (b32Val v : ℝ) ^ 2 ≤ M)
    (hlo : 1 / 4 ≤ M) (hhi : M ≤ 2 ^ 100) : closeWithin (M / 2 ^ 23) ((b32Val v : ℝ) ^ 2) (b32Mul v v) := by
  have h := roundsTo_mul_of_finite hv hv
  rw [← pow_two] at h
  rw [← zero_add (M / 2 ^ 23)]
  refine h.closeWithin (by simp) (by rwa [abs_of_nonneg (sq_nonneg _)]) (by linarith) hlo hhi

theorem normSq_cast (p : Quat Scalar) : (normSq p : ℝ) =
    (b32Val p.q0 : ℝ) ^ 2 + (b32Val p.q1 : ℝ) ^ 2 + (b32Val p.q2 : ℝ) ^ 2 + (b32Val p.q3 : ℝ) ^ 2 := by
  unfold normSq
  push_cast
  rfl

/-- A relative error goes over to the square root, and is no larger there. -/
theorem abs_sqrt_sub_sqrt_le {a S k : ℝ} (ha : 0 ≤ a) (hS : 0 < S) (h : |a - S| ≤ k * S) : |√a - √S| ≤ k * √S := by
  have hR : 0 < √S := Real.sqrt_pos.mpr hS
  have hfactor : a - S = (√a - √S) * (√a + √S) := by
    linear_combination Real.sq_sqrt hS.le - Real.sq_sqrt ha
  have hsum : |√a + √S| = √a + √S := abs_of_nonneg (by positivity)
  refine le_of_mul_le_mul_right ?_ hR
  calc |√a - √S| * √S ≤ |√a - √S| * (√a + √S) :=
        mul_le_mul_of_nonneg_left (le_add_of_nonneg_left (Real.sqrt_nonneg a)) (abs_nonneg _)
    _ = |a - S| := by rw [hfactor, abs_mul, hsum]
    _ ≤ k * S := h
    _ = k * √S * √S := by rw [mul_assoc, Real.mul_self_sqrt hS.le]

/-- Dividing by a norm that is off by eight roundings, in place of the exact norm, costs less than nine. -/
theorem abs_div_sub_div_le {x N R : ℝ} (hR : 0 < R) (hx : |x| ≤ R) (h : |N - R| ≤ 8 * (R / 2 ^ 23)) :
    0 < N ∧ |x / N - x / R| ≤ 9 / 2 ^ 23 := by
  have hN : 0 < N := by linarith [(abs_le.mp h).1]
  refine ⟨hN, ?_⟩
  have hsplit : x / N - x / R = x / R * ((R - N) / N) := by field_simp
  have hratio : |x / R| ≤ 1 := by rwa [abs_div, abs_of_pos hR, div_le_one hR]
  have herr : |(R - N) / N| ≤ 9 / 2 ^ 23 := by
    rw [abs_div, abs_of_pos hN, div_le_iff₀ hN, abs_sub_comm]
    linarith [(abs_le.mp h).1]
  rw [hsplit, abs_mul]
  calc |x / R| * |(R - N) / N| ≤ 1 * |(R - N) / N| := mul_le_mul_of_nonneg_right hratio (abs_nonneg _)
    _ ≤ 9 / 2 ^ 23 := by rwa [one_mul]

/-- The square of a number close to one of size at most 1. -/
theorem abs_sq_sub_sq_le {y x : ℝ} (hx : |x| ≤ 1) (h : |y - x| ≤ 10 / 2 ^ 23) : |y ^ 2 - x ^ 2| ≤ 21 / 2 ^ 23 := by
  have hsum : |y + x| ≤ 21 / 10 := by
    have htri := abs_add_le (y - x) (2 * x)
    rw [show y - x + 2 * x = y + x by ring, abs_mul, abs_two] at htri
    linarith
  rw [sq_sub_sq, abs_mul]
  calc |y + x| * |y - x| ≤ 21 / 10 * (10 / 2 ^ 23) := mul_le_mul hsum h (abs_nonneg _) (by norm_num)
    _ = 21 / 2 ^ 23 := by norm_num

section
variable {p : Quat Scalar} (hp : finiteQuat p) (hlo : (1 / 4 : ℝ) ≤ normSq p) (hhi : (normSq p : ℝ) ≤ 2 ^ 100)
include hp hlo hhi

/-- The sum of squares of step 7 is off by at most seven roundings. -/
theorem sumSquares_close : closeWithin (7 * (normSq p / 2 ^ 23)) (normSq p)
    (b32Add (b32Add (b32Add (b32Mul p.q0 p.q0) (b32Mul p.q1 p.q1)) (b32Mul p.q2 p.q2)) (b32Mul p.q3 p.q3)) := by
  obtain ⟨h0, h1, h2, h3⟩ := hp
  have hS := normSq_cast p
  generalize (normSq p : ℝ) = S at *
  have n0 := sq_nonneg (b32Val p.q0 : ℝ)
  have n1 := sq_nonneg (b32Val p.q1 : ℝ)
  have n2 := sq_nonneg (b32Val p.q2 : ℝ)
  have n3 := sq_nonneg (b32Val p.q3 : ℝ)
  have c0 := closeWithin_square (M := S) h0 (by linarith) hlo hhi
  have c1 := closeWithin_square (M := S) h1 (by linarith) hlo hhi
  have c2 := closeWithin_square (M := S) h2 (by linarith) hlo hhi
  have c3 := closeWithin_square (M := S) h3 (by linarith) hlo hhi
  have c01 := c0.add (M := S) c1 n0 n1 (by linarith) (by linarith) hlo hhi
  have c012 := c01.add (M := S) c2 (by linarith) n2 (by linarith) (by linarith) hlo hhi
  have c0123 := c012.add (M := S) c3 (by linarith) n3 (by linarith) (by linarith) hlo hhi
  rw [hS]
  convert c0123 using 1
  linarith

/-- The norm of step 7 is off the exact norm by at most eight roundings. -/
theorem quatNorm_close : closeWithin (8 * (√(normSq p : ℝ) / 2 ^ 23)) √(normSq p : ℝ) (quatNorm num p) := by
  obtain ⟨hfin, herr⟩ := sumSquares_close hp hlo hhi
  have hS : (0 : ℝ) < normSq p := by linarith
  have hR : 1 / 2 ≤ √(normSq p : ℝ) := Real.le_sqrt_of_sq_le (by linarith)
  have hRhi : √(normSq p : ℝ) ≤ 2 ^ 100 := (Real.sqrt_le_left (by positivity)).mpr (hhi.trans (by norm_num))
  have hnn : (0 : ℝ) ≤ b32Val (b32Add (b32Add (b32Add (b32Mul p.q0 p.q0) (b32Mul p.q1 p.q1)) (b32Mul p.q2 p.q2))
      (b32Mul p.q3 p.q3)) := by linarith [(abs_le.mp herr).1]
  rw [← mul_div_assoc, mul_div_right_comm] at herr
  have h := (roundsTo_sqrt_of_finite hfin hnn).closeWithin (M := √(normSq p : ℝ)) (abs_sqrt_sub_sqrt_le hnn hS herr)
    (by rw [abs_of_nonneg (Real.sqrt_nonneg _)]) (by linarith) (by linarith) hRhi
  simp only [quatNorm, num_add, num_mul, num_sqrt]
  convert h using 1
  ring

/-- A component after step 7 is off the exact quotient by at most ten roundings. -/
theorem normalized_close {v : Scalar} (hv : b32Finite v = true) (hvS : (b32Val v : ℝ) ^ 2 ≤ normSq p) :
    closeWithin (10 / 2 ^ 23) (b32Val v / √(normSq p : ℝ)) (b32Div v (quatNorm num p)) := by
  obtain ⟨hfin, herr⟩ := quatNorm_close hp hlo hhi
  have hR : 0 < √(normSq p : ℝ) := Real.sqrt_pos.mpr (by linarith)
  have hvR : |(b32Val v : ℝ)| ≤ √(normSq p : ℝ) := Real.abs_le_sqrt hvS
  obtain ⟨hN, hdist⟩ := abs_div_sub_div_le hR hvR herr
  have hratio : |(b32Val v : ℝ) / √(normSq p : ℝ)| ≤ 1 := by rwa [abs_div, abs_of_pos hR, div_le_one hR]
  have h := (roundsTo_div_of_finite hv hfin hN.ne').closeWithin (M := 1) hdist hratio (by norm_num) (by norm_num)
    (by norm_num)
  convert h using 1
  norm_num

/-- The square of a component after step 7, against its share of the squared norm. -/
theorem normalized_sq_close {v : Scalar} (hv : b32Finite v = true) (hvS : (b32Val v : ℝ) ^ 2 ≤ normSq p) :
    b32Finite (b32Div v (quatNorm num p)) = true ∧
      |(b32Val (b32Div v (quatNorm num p)) : ℝ) ^ 2 - (b32Val v : ℝ) ^ 2 / normSq p| ≤ 21 / 2 ^ 23 := by
  obtain ⟨hfin, herr⟩ := normalized_close hp hlo hhi hv hvS
  have hS : (0 : ℝ) < normSq p := by linarith
  have hsq : ((b32Val v : ℝ) / √(normSq p : ℝ)) ^ 2 = (b32Val v : ℝ) ^ 2 / normSq p := by
    rw [div_pow, Real.sq_sqrt hS.le]
  have hle : |(b32Val v : ℝ) / √(normSq p : ℝ)| ≤ 1 := by
    rwa [← sq_le_one_iff_abs_le_one, hsq, div_le_one hS]
  rw [← hsq]
  exact ⟨hfin, abs_sq_sub_sq_le hle herr⟩

/-- Step 7 leaves a finite quaternion with a squared norm off 1 by at most 84 roundings. -/
theorem normalizeQuat_close :
    finiteQuat (normalizeQuat num p) ∧ |(normSq (normalizeQuat num p) : ℝ) - 1| ≤ 84 / 2 ^ 23 := by
  have ⟨h0, h1, h2, h3⟩ := hp
  have hS := normSq_cast p
  have n0 := sq_nonneg (b32Val p.q0 : ℝ)
  have n1 := sq_nonneg (b32Val p.q1 : ℝ)
  have n2 := sq_nonneg (b32Val p.q2 : ℝ)
  have n3 := sq_nonneg (b32Val p.q3 : ℝ)
  obtain ⟨f0, e0⟩ := normalized_sq_close hp hlo hhi h0 (by linarith)
  obtain ⟨f1, e1⟩ := normalized_sq_close hp hlo hhi h1 (by linarith)
  obtain ⟨f2, e2⟩ := normalized_sq_close hp hlo hhi h2 (by linarith)
  obtain ⟨f3, e3⟩ := normalized_sq_close hp hlo hhi h3 (by linarith)
  have hone : (b32Val p.q0 : ℝ) ^ 2 / normSq p + (b32Val p.q1 : ℝ) ^ 2 / normSq p + (b32Val p.q2 : ℝ) ^ 2 / normSq p +
      (b32Val p.q3 : ℝ) ^ 2 / normSq p = 1 := by
    rw [← add_div, ← add_div, ← add_div, ← hS, div_self (by linarith)]
  refine ⟨⟨f0, f1, f2, f3⟩, ?_⟩
  rw [normSq_cast]
  simp only [normalizeQuat, num_div]
  rw [abs_le] at *
  constructor <;> linarith [e0.1, e0.2, e1.1, e1.2, e2.1, e2.2, e3.1, e3.2]

end

/-- The norm is within 1e-5 of 1, as the statement bounds its square. -/
theorem normalizeQuat_unit {p : Quat Scalar} (hp : finiteQuat p) (hlo : 1 / 4 ≤ normSq p) (hhi : normSq p ≤ 2 ^ 100) :
    finiteQuat (normalizeQuat num p) ∧ (1 - 1 / 100000) ^ 2 ≤ normSq (normalizeQuat num p) ∧
      normSq (normalizeQuat num p) ≤ (1 + 1 / 100000) ^ 2 := by
  have hlo' : ((1 / 4 : Rat) : ℝ) ≤ normSq p := Rat.cast_le.mpr hlo
  have hhi' : (normSq p : ℝ) ≤ ((2 ^ 100 : Rat) : ℝ) := Rat.cast_le.mpr hhi
  push_cast at hlo' hhi'
  obtain ⟨hfin, herr⟩ := normalizeQuat_close hp hlo' hhi'
  obtain ⟨hge, hle⟩ := abs_le.mp herr
  refine ⟨hfin, (Rat.cast_le (K := ℝ)).mp ?_, (Rat.cast_le (K := ℝ)).mp ?_⟩
  · push_cast
    linarith
  · push_cast
    linarith

/-- Settles O51: each component is a quotient off by few roundings, and UPDATE ends with step 7. -/
theorem normalizationGivesUnitNorm : Obligations.NormalizationGivesUnitNorm := by
  unfold Obligations.NormalizationGivesUnitNorm
  refine ⟨fun p ⟨hfin, hlo, hhi⟩ => normalizeQuat_unit hfin hlo hhi, fun s h ⟨hfin, hlo, hhi⟩ => ?_⟩
  refine ⟨_, exec_update_next h, ?_⟩
  rw [putUpdate_quat, updateResult_quat]
  exact normalizeQuat_unit hfin hlo hhi

end Sys2Proof.Machine
end

section
/-! How the machine answers, said once: what a command, a host move and a step can do to the state they start from. -/

namespace Sys2Proof.Machine

/-! ### Commands -/

/-- The states a command can leave: what it writes, with what the statements on invariants need of the values. -/
inductive CommandEffect (s : State) : Instr → State → Prop
  | csinit : CommandEffect s .csinit { s with xoracc := xorSeed, crcacc := crcInit }
  | csput (b : Byte) :
    CommandEffect s (.csput b) { s with xoracc := xorStep s.xoracc b, crcacc := crcStep s.crcacc b }
  | xor8 (d : U16) : CommandEffect s .xor8 (s.setDigest d)
  | crc16 (d : U16) : CommandEffect s .crc16 (s.setDigest d)
  | verify (alg : Alg) (b : Bool) : CommandEffect s (.verify alg) (s.setMatch b)
  | encL1 (frame : Bytes) (fits : frame.length ≤ Config.bufCap) :
    CommandEffect s .encL1 { s with buf := memWriteSeq s.buf 0 frame, len := BitVec.ofNat 16 frame.length }
  | encL2 (frame : Bytes) (fits : frame.length ≤ Config.bufCap) :
    CommandEffect s .encL2 { s with buf := memWriteSeq s.buf 0 frame, len := BitVec.ofNat 16 frame.length }
  | dec (bytes : Bytes) : CommandEffect s .dec (s.putParse (parseFrame num Config.fmtTable bytes))
  | update (u : UpdateResult Scalar) : CommandEffect s .update (s.putUpdate u)
  | euler (a : Angles Scalar) : CommandEffect s .euler (s.setAngles a)

/-- An encoding that completes has stored a frame that has room. -/
theorem encodeKind_stores {s t : State} {e : FrameFormat} (h : s.encodeKind e = .next t) :
    ∃ frame : Bytes, frame.length ≤ Config.bufCap ∧
      t = { s with buf := memWriteSeq s.buf 0 frame, len := BitVec.ofNat 16 frame.length } := by
  obtain ⟨-, hput⟩ := encodeKind_eq_next.mp h
  exact ⟨_, putFrame_eq_next.mp hput⟩

/-- A command that completes leaves one of its states. -/
theorem exec_effect {i : Instr} {s t : State} (h : exec i s = .next t) : CommandEffect s i t := by
  cases i with
  | csinit =>
    injection h with h
    exact h ▸ .csinit
  | csput b =>
    injection h with h
    exact h ▸ .csput b
  | xor8 =>
    obtain ⟨bytes, -, h⟩ := andThen_eq_next.mp h
    injection h with h
    exact h ▸ .xor8 _
  | crc16 =>
    obtain ⟨bytes, -, h⟩ := andThen_eq_next.mp h
    injection h with h
    exact h ▸ .crc16 _
  | verify alg =>
    obtain ⟨bytes, -, h⟩ := andThen_eq_next.mp h
    obtain ⟨-, h⟩ := andThen_requireWritten.mp h
    injection h with h
    exact h ▸ .verify alg _
  | encL1 =>
    obtain ⟨frame, hfits, rfl⟩ := encodeKind_stores h
    exact .encL1 frame hfits
  | encL2 =>
    obtain ⟨frame, hfits, rfl⟩ := encodeKind_stores h
    exact .encL2 frame hfits
  | dec =>
    obtain ⟨bytes, -, h⟩ := andThen_eq_next.mp h
    injection h with h
    exact h ▸ .dec bytes
  | update =>
    obtain ⟨-, h⟩ := andThen_requireWritten.mp h
    injection h with h
    exact h ▸ .update _
  | euler =>
    injection h with h
    exact h ▸ .euler _

/-! ### Host moves -/

/-- The states a host move that is no command can leave (rule R226). -/
inductive MoveEffect (s : State) : State → Prop
  | scalar (r : SReg) (v : Scalar) (input : r.number.val < 12) : MoveEffect s (s.setScalar r v)
  | len (v : Nat) (fits : v ≤ Config.bufCap) : MoveEffect s { s with len := BitVec.ofNat 16 v }
  | tms (v : U32) : MoveEffect s ({ s with tms := v }.markWritten (.control .tms))
  | expect (v : U16) : MoveEffect s ({ s with expect := v }.markWritten (.control .expect))
  | byte (i : Nat) (b : Byte) (fits : i < Config.bufCap) : MoveEffect s (writeByte i b s)
  | reply (r : Option Reply) : MoveEffect s { s with reply := r }

/-- The writes of control registers that exist (rule R226). -/
theorem wrcAllowed_iff {n v : Nat} : HostMove.wrcAllowed n v = true ↔
    (n = 2 ∧ v ≤ Config.bufCap) ∨ (n = 3 ∧ v < 2 ^ 32) ∨ (n = 4 ∧ v < 2 ^ 16) := by
  have hcap := bufCap_le
  by_cases hn : n < 11
  · interval_cases n <;> simp [HostMove.wrcAllowed, CReg.ofNumber, CReg.all]
    omega
  · have hnone : CReg.ofNumber n = none := List.getElem?_eq_none (by simpa [CReg.all] using hn)
    simp only [HostMove.wrcAllowed, hnone, Bool.false_eq_true, false_iff]
    omega

/-- A move that exists and completes is a command, or leaves one of the states of the moves. -/
theorem hostMove_effect {m : HostMove} {s t : State} (ha : m.allowed = true) (h : hostMove m s = .next t) :
    (∃ w, m = .cmd w) ∨ MoveEffect s t := by
  cases m with
  | cmd w => exact .inl ⟨w, rfl⟩
  | wrs n v =>
    injection h with h
    have hn : n < 12 := of_decide_eq_true ha
    obtain ⟨r, hr⟩ : ∃ r, SReg.ofNumber n = some r := by interval_cases n <;> exact ⟨_, rfl⟩
    have hnum := SReg_ofNumber_eq_some.mp hr
    rw [writeScalar, hr] at h
    exact .inr (h ▸ .scalar r v (hnum ▸ hn))
  | wrc n v =>
    injection h with h
    rcases wrcAllowed_iff.mp ha with ⟨rfl, hv⟩ | ⟨rfl, -⟩ | ⟨rfl, -⟩
    · exact .inr (h ▸ .len v hv)
    · exact .inr (h ▸ .tms _)
    · exact .inr (h ▸ .expect _)
  | wrb i b =>
    injection h with h
    exact .inr (h ▸ .byte i b ((indexExists_iff i).mp ha))
  | rds n =>
    injection h with h
    exact .inr (h ▸ .reply _)
  | rdc n =>
    injection h with h
    exact .inr (h ▸ .reply _)
  | rdb i =>
    injection h with h
    exact .inr (h ▸ .reply _)

/-! ### Steps -/

/-- The state an event acts on: the event is off the queue, and no reply stands. -/
def State.taken (s : State) (rest : List Event) : State := { s with pending := rest, reply := none }

/-- The states a step can leave, by the event it takes. -/
inductive StepEffect (s : State) : State → Prop
  | idle : StepEffect s s
  | reset (rest : List Event) (event : s.resets) : StepEffect s (resetBlock (s.taken rest))
  | move (rest : List Event) {t : State} (effect : MoveEffect (s.taken rest) t) : StepEffect s t
  | command (rest : List Event) {i : Instr} {t : State} (event : s.gives i)
    (effect : CommandEffect (s.taken rest) i t) : StepEffect s t
  | illegal (rest : List Event) (event : s.givesIllegal) : StepEffect s (s.taken rest).setIll

theorem step_effect {s t : State} (h : step s = .next t) : StepEffect s t := by
  rcases step_eq_next.mp h with ⟨-, rfl⟩ | ⟨rest, hp, rfl⟩ | ⟨m, base, ⟨rest, hp, rfl⟩, ha, hm⟩
  · exact .idle
  · exact .reset rest ⟨rest, hp⟩
  · rcases hostMove_effect ha hm with ⟨w, rfl⟩ | heffect
    · rcases giveCommand_cases w (s.taken rest) with ⟨i, hw, hrun⟩ | ⟨e, hw, hill⟩
      · exact .command rest ⟨w, rest, hp, hw⟩ (exec_effect (hrun.symm.trans hm))
      · have ht : (s.taken rest).setIll = t := by
          injection hill.symm.trans hm
        exact ht ▸ .illegal rest ⟨w, rest, e, hp, hw⟩
    · exact .move rest heffect

end Sys2Proof.Machine
end

section
/-! The invariant of the registers (rules R26, R28, R29, R33, R38 and R50) through every operation, command and step. -/

namespace Sys2Proof.Machine

/-! ### What a successful parse gives -/

/-- The fields parse, to these values, exactly where each one does (rule R152). -/
theorem parseNums_eq_some {T : Type} {N : Num T} {ps : List Bytes} {vs : List T} :
    parseNums N ps = some vs ↔ ps.map (parseNum N) = vs.map some := by
  induction ps generalizing vs with
  | nil => cases vs <;> simp [parseNums]
  | cons p ps ih =>
    cases vs with
    | nil => cases hp : parseNum N p <;> simp [parseNums, hp]
    | cons v vs => cases hp : parseNum N p <;> simp [parseNums, hp, ih, and_comm]

/-- A parse that succeeds has as many values as pieces after the timestamp (rule R152). -/
theorem parseFields_ok {T : Type} {N : Num T} {e : FrameFormat} {rest : List Bytes} {p : Parsed T}
    (h : parseFields N e rest = .ok p) : p.kind = e.kind ∧ rest.length = 1 + p.values.length := by
  unfold parseFields at h
  split at h
  · cases h
  · split at h
    · cases h
    · split at h
      · cases h
      · rename_i _ fs _ vs hvs
        injection h with h
        subst h
        have hlen := congrArg List.length (parseNums_eq_some.mp hvs)
        rw [List.length_map, List.length_map] at hlen
        exact ⟨rfl, by rw [List.length_cons, hlen, Nat.add_comm]⟩

/-- A parse that succeeds gives the kind of an entry of the table and one value a field (rules R149 and R153). -/
theorem parseFrame_ok {T : Type} {N : Num T} {table : List FrameFormat} {bytes : Bytes} {p : Parsed T}
    (h : parseFrame N table bytes = .ok p) :
    ∃ e ∈ table, p.kind = e.kind ∧ p.values.length = e.fields.length := by
  unfold parseFrame at h
  split at h
  · cases h
  split at h
  · cases h
  unfold parsePayload at h
  split at h
  · cases h
  split at h
  · cases h
  rename_i e he
  split at h
  · cases h
  split at h
  · cases h
  · rename_i hcount
    obtain ⟨hkind, hlen⟩ := parseFields_ok h
    exact ⟨e, List.mem_of_find?_eq_some he, hkind, by omega⟩

/-- RKIND and RNF of a successful parse are a kind and its field count (rule R33). -/
theorem parseFrame_kindCount {bytes : Bytes} {p : Parsed Scalar} (h : parseFrame num Config.fmtTable bytes = .ok p) :
    (p.kind = 1 ∧ p.values.length = 8) ∨ (p.kind = 2 ∧ p.values.length = 5) := by
  obtain ⟨e, he, hkind, hlen⟩ := parseFrame_ok h
  have hrow : ∀ e ∈ Config.fmtTable, (e.kind = 1 ∧ e.fields.length = 8) ∨ (e.kind = 2 ∧ e.fields.length = 5) := by
    decide
  rw [hkind, hlen]
  exact hrow e he

/-! ### The marks of the operations -/

theorem marks_of_written {s t : State} (h : t.written = s.written) : t.marks s [] := by
  intro r
  simp [State.isWritten, h]

theorem setScalars_marks (s : State) (ws : List (SReg × Scalar)) :
    (s.setScalars ws).marks s (ws.map fun w => Reg.scalar w.1) :=
  fun r => isWritten_setScalars s ws r

theorem markWritten_marks (s : State) (r : Reg) : (s.markWritten r).marks s [r] := by
  intro r'
  simp

/-! ### The operations keep the invariant -/

/-- The registers that DEC writes together (rule R33). -/
def decResults : List Reg := [.control .rkind, .control .rtms, .control .rnf]

/-- An operation that leaves the results of DEC and their marks alone keeps the invariant where it keeps the ranges of
the registers and the form of the buffer. -/
theorem State.Inv.of_marks {s t : State} {rs : List Reg} (h : s.Inv) (hm : t.marks s rs)
    (hrs : ∀ r ∈ decResults, r ∉ rs) (hkind : t.rkind = s.rkind) (hcount : t.rnf = s.rnf)
    (hbuf : Memory.wf t.buf) (hlen : t.len.toNat ≤ Config.bufCap) (hstatus : t.status.toNat < 8)
    (herr : t.err.toNat ≤ 4) : t.Inv := by
  have hkeep : ∀ r ∈ decResults, t.isWritten r = s.isWritten r := fun r hr => by
    rw [hm r, decide_eq_false (hrs r hr), Bool.false_or]
  have hwk := hkeep (.control .rkind) (by decide)
  have hwt := hkeep (.control .rtms) (by decide)
  have hwn := hkeep (.control .rnf) (by decide)
  refine ⟨hbuf, hlen, hstatus, herr, ?_, ?_, fun r hr => ?_⟩
  · rw [hwk, hwt, hwn]
    exact h.resultsTogether
  · rw [hwk, hkind, hcount]
    exact h.kindCount
  · rw [hm r, h.resetWritten r hr, Bool.or_true]

/-- An operation that leaves alone every field the invariant names keeps it. -/
theorem State.Inv.of_same {s t : State} (h : s.Inv) (hw : t.written = s.written) (hkind : t.rkind = s.rkind)
    (hcount : t.rnf = s.rnf) (hbuf : t.buf = s.buf) (hlen : t.len = s.len) (hstatus : t.status = s.status)
    (herr : t.err = s.err) : t.Inv :=
  h.of_marks (marks_of_written hw) (fun _ _ => List.not_mem_nil) hkind hcount (hbuf ▸ h.bufWf) (hlen ▸ h.lenFits)
    (hstatus ▸ h.statusReserved) (herr ▸ h.errCode)

theorem State.Inv.setScalars {s : State} (h : s.Inv) (ws : List (SReg × Scalar)) : (s.setScalars ws).Inv := by
  refine h.of_marks (setScalars_marks s ws) ?_ (setScalars_rkind s ws) (setScalars_rnf s ws) ?_ ?_ ?_ ?_
  · simp [decResults]
  · rw [setScalars_buf]
    exact h.bufWf
  · rw [setScalars_len]
    exact h.lenFits
  · rw [setScalars_status]
    exact h.statusReserved
  · rw [setScalars_err]
    exact h.errCode

theorem State.Inv.markWritten {s : State} (h : s.Inv) {r : Reg} (hr : r ∉ decResults) : (s.markWritten r).Inv :=
  h.of_marks (markWritten_marks s r) (fun _ hm hmem => hr (List.mem_singleton.mp hmem ▸ hm)) rfl rfl h.bufWf h.lenFits
    h.statusReserved h.errCode

/-- Writing a bit of STATUS that is not reserved (rule R26). -/
theorem State.Inv.setStatusBit {s : State} (h : s.Inv) {k : Nat} (hk : k < 3) (b : Bool) :
    ({ s with status := statusWithBit s.status k b } : State).Inv :=
  h.of_marks (marks_of_written rfl) (fun _ _ => List.not_mem_nil) rfl rfl h.bufWf h.lenFits
    (statusWithBit_lt _ _ _ hk h.statusReserved) h.errCode

/-- Storing bytes that have room, and a LEN that fits (rules R29 and R50). -/
theorem State.Inv.setBuffer {s : State} (h : s.Inv) {buf : Memory} {n : Nat} (hbuf : Memory.wf buf)
    (hn : n ≤ Config.bufCap) : ({ s with buf := buf, len := BitVec.ofNat 16 n } : State).Inv :=
  h.of_marks (marks_of_written rfl) (fun _ _ => List.not_mem_nil) rfl rfl hbuf
    ((BitVec.toNat_ofNat _ _ ▸ Nat.mod_le _ _).trans hn) h.statusReserved h.errCode

theorem FrameError.code_le (e : FrameError) : e.code.toNat ≤ 4 := by
  cases e <;> decide

theorem State.Inv.failWith {s : State} (h : s.Inv) (e : FrameError) : (s.failWith e).Inv :=
  h.of_marks (marks_of_written rfl) (fun _ _ => List.not_mem_nil) rfl rfl h.bufWf h.lenFits h.statusReserved e.code_le

theorem putParsed_isWritten (s : State) (p : Parsed Scalar) (r : Reg) : (s.putParsed p).isWritten r =
    (decide (r ∈ decResults) || (s.setScalars (SReg.results.zip p.values)).isWritten r) :=
  isWritten_markAll _ _ _

/-- The writes of a successful DEC keep the invariant, where the values are those of a kind. -/
theorem State.Inv.putParsed {s : State} (h : s.Inv) {p : Parsed Scalar}
    (hp : (p.kind = 1 ∧ p.values.length = 8) ∨ (p.kind = 2 ∧ p.values.length = 5)) : (s.putParsed p).Inv := by
  have hs := h.setScalars (SReg.results.zip p.values)
  have hw : ∀ r ∈ decResults, (s.putParsed p).isWritten r = true := fun r hr => by
    rw [putParsed_isWritten, decide_eq_true hr, Bool.true_or]
  have hkind : (s.putParsed p).rkind = p.kind := markAll_rkind _ _
  have hcount : (s.putParsed p).rnf = BitVec.ofNat 8 p.values.length := markAll_rnf _ _
  have herr : (s.putParsed p).err = 0 := markAll_err _ _
  refine ⟨?_, ?_, ?_, ?_, ?_, fun _ => ?_, fun r hr => ?_⟩
  · exact (markAll_buf _ _).symm ▸ hs.bufWf
  · exact (markAll_len _ _).symm ▸ hs.lenFits
  · exact (markAll_status _ _).symm ▸ hs.statusReserved
  · rw [herr]
    decide
  · rw [hw (.control .rkind) (by decide), hw (.control .rtms) (by decide), hw (.control .rnf) (by decide)]
    exact ⟨rfl, rfl⟩
  · rw [hkind, hcount]
    rcases hp with ⟨hk, hn⟩ | ⟨hk, hn⟩
    · exact .inl ⟨hk, by rw [hn]; rfl⟩
    · exact .inr ⟨hk, by rw [hn]; rfl⟩
  · rw [putParsed_isWritten, hs.resetWritten r hr, Bool.or_true]

/-! ### Reset, commands, moves and steps -/

/-- Settles O11: the fields of State.reset are literals. -/
theorem resetMeetsInv : Obligations.ResetMeetsInv := by
  unfold Obligations.ResetMeetsInv
  exact ⟨reset_buf_wf, Nat.zero_le _, by decide, by decide, by decide, by decide, by decide⟩

theorem resetBlock_inv (s : State) : (resetBlock s).Inv :=
  State.Inv.of_same resetMeetsInv rfl rfl rfl rfl rfl rfl rfl

theorem State.Inv.command {s t : State} {i : Instr} (h : s.Inv) (ht : CommandEffect s i t) : t.Inv := by
  cases ht with
  | csinit => exact h.of_same rfl rfl rfl rfl rfl rfl rfl
  | csput b => exact h.of_same rfl rfl rfl rfl rfl rfl rfl
  | xor8 d | crc16 d =>
    have hd : ({ s with digest := d } : State).Inv := h.of_same rfl rfl rfl rfl rfl rfl rfl
    exact hd.markWritten (by decide)
  | verify alg b => exact h.setStatusBit (by decide) b
  | encL1 frame fits | encL2 frame fits =>
    exact h.setBuffer (memWriteSeq_wf _ _ _ h.bufWf (by omega)) fits
  | dec bytes =>
    cases hp : parseFrame num Config.fmtTable bytes with
    | ok p => exact h.putParsed (parseFrame_kindCount hp)
    | error e => exact h.failWith e
  | update u =>
    rw [putUpdate_eq]
    exact (h.setScalars _).setStatusBit (by decide) _
  | euler a => exact h.setScalars _

theorem State.Inv.move {s t : State} (h : s.Inv) (ht : MoveEffect s t) : t.Inv := by
  cases ht with
  | scalar r v input => exact h.setScalars [(r, v)]
  | len v fits => exact h.setBuffer h.bufWf fits
  | tms v =>
    have hv : ({ s with tms := v } : State).Inv := h.of_same rfl rfl rfl rfl rfl rfl rfl
    exact hv.markWritten (by decide)
  | expect v =>
    have hv : ({ s with expect := v } : State).Inv := h.of_same rfl rfl rfl rfl rfl rfl rfl
    exact hv.markWritten (by decide)
  | byte i b fits =>
    exact h.of_marks (marks_of_written rfl) (fun _ _ => List.not_mem_nil) rfl rfl
      (memWrite_wf _ _ _ h.bufWf ((indexExists_iff i).mpr fits)) h.lenFits h.statusReserved h.errCode
  | reply r => exact h.of_same rfl rfl rfl rfl rfl rfl rfl

theorem State.Inv.taken {s : State} (h : s.Inv) (rest : List Event) : (s.taken rest).Inv :=
  h.of_same rfl rfl rfl rfl rfl rfl rfl

/-- Settles O12, by the event the step takes. -/
theorem stepKeepsInv : Obligations.StepKeepsInv := by
  unfold Obligations.StepKeepsInv
  intro s t h hstep
  cases step_effect hstep with
  | idle => exact h
  | reset rest event => exact resetBlock_inv _
  | move rest effect => exact (h.taken rest).move effect
  | command rest event effect => exact (h.taken rest).command effect
  | illegal rest event => exact (h.taken rest).setStatusBit (by decide) true

end Sys2Proof.Machine
end

section
/-! Which registers each command, move and step leaves as it is (rules R26, R28, R32 and R34). -/

namespace Sys2Proof.Machine

/-! ### The registers that a command does not write -/

theorem setScalars_quat_of_notMem (s : State) (ws : List (SReg × Scalar))
    (h : ∀ r ∈ [SReg.q0, .q1, .q2, .q3], r ∉ ws.map Prod.fst) : (s.setScalars ws).quat = s.quat := by
  have hkeep := fun r hr => scalar_setScalars_of_notMem s ws r (h r hr)
  simp [State.quat, hkeep]

/-- The registers that a zip with the result registers writes are result registers. -/
theorem mem_results_of_mem_zip {r : SReg} {vs : List Scalar} (h : r ∈ (SReg.results.zip vs).map Prod.fst) :
    r ∈ SReg.results := by
  obtain ⟨w, hw, rfl⟩ := List.mem_map.mp h
  exact (List.of_mem_zip hw).1

theorem putParsed_scalar (s : State) (p : Parsed Scalar) (r : SReg) :
    (s.putParsed p).scalar r = (s.setScalars (SReg.results.zip p.values)).scalar r := rfl

theorem putParse_quat (s : State) (result : Except FrameError (Parsed Scalar)) : (s.putParse result).quat = s.quat := by
  cases result with
  | error e => rfl
  | ok p =>
    refine setScalars_quat_of_notMem s _ fun r hr hmem => ?_
    have hdisjoint : ∀ r ∈ [SReg.q0, .q1, .q2, .q3], r ∉ SReg.results := by decide
    exact hdisjoint r hr (mem_results_of_mem_zip hmem)

/-- DEC writes no bit of STATUS and no running register. -/
theorem putParse_frame (s : State) (result : Except FrameError (Parsed Scalar)) :
    (s.putParse result).status = s.status ∧ (s.putParse result).xoracc = s.xoracc ∧
      (s.putParse result).crcacc = s.crcacc := by
  cases result with
  | error e => exact ⟨rfl, rfl, rfl⟩
  | ok p => exact ⟨setScalars_status _ _, setScalars_xoracc _ _, setScalars_crcacc _ _⟩

theorem putUpdate_err (s : State) (u : UpdateResult Scalar) : (s.putUpdate u).err = s.err := by
  rw [← congrArg State.err (putUpdate_frame s u)]

theorem putUpdate_xoracc (s : State) (u : UpdateResult Scalar) : (s.putUpdate u).xoracc = s.xoracc := by
  rw [← congrArg State.xoracc (putUpdate_frame s u)]

theorem putUpdate_crcacc (s : State) (u : UpdateResult Scalar) : (s.putUpdate u).crcacc = s.crcacc := by
  rw [← congrArg State.crcacc (putUpdate_frame s u)]

/-- Setting MATCH leaves the other bits of STATUS. -/
theorem setMatch_status_of_ne (s : State) (b : Bool) {k : Nat} (hk : k ≠ matchBit) :
    (s.setMatch b).status.getLsbD k = s.status.getLsbD k :=
  (getLsbD_statusWithBit _ _ _ (by decide) k).trans (if_neg hk)

/-- Setting ILL leaves the other bits of STATUS. -/
theorem setIll_status_of_ne (s : State) {k : Nat} (hk : k ≠ illBit) :
    s.setIll.status.getLsbD k = s.status.getLsbD k :=
  (getLsbD_statusWithBit _ _ _ (by decide) k).trans (if_neg hk)

/-- The quaternion is UPDATE's (rule R34). -/
theorem CommandEffect.quat {s t : State} {i : Instr} (h : CommandEffect s i t) (hi : i ≠ .update) :
    t.quat = s.quat := by
  cases h with
  | update u => exact absurd rfl hi
  | dec bytes => exact putParse_quat s _
  | euler a => exact setScalars_quat_of_notMem s _ (by simp)
  | csinit | csput | xor8 | crc16 | verify | encL1 | encL2 => rfl

/-- ERR is DEC's (rule R28). -/
theorem CommandEffect.err {s t : State} {i : Instr} (h : CommandEffect s i t) (hi : i ≠ .dec) : t.err = s.err := by
  cases h with
  | dec bytes => exact absurd rfl hi
  | update u => exact putUpdate_err s u
  | csinit | csput | xor8 | crc16 | verify | encL1 | encL2 | euler => rfl

/-- The running registers are those of CSINIT and CSPUT (rule R32). -/
theorem CommandEffect.accumulators {s t : State} {i : Instr} (h : CommandEffect s i t)
    (hi : ¬(i = .csinit ∨ ∃ b, i = .csput b)) : t.xoracc = s.xoracc ∧ t.crcacc = s.crcacc := by
  cases h with
  | csinit => exact absurd (.inl rfl) hi
  | csput b => exact absurd (.inr ⟨b, rfl⟩) hi
  | dec bytes => exact (putParse_frame s _).2
  | update u => exact ⟨putUpdate_xoracc s u, putUpdate_crcacc s u⟩
  | xor8 | crc16 | verify | encL1 | encL2 | euler => exact ⟨rfl, rfl⟩

/-- STATUS is VERIFY's and UPDATE's (rule R26). -/
theorem CommandEffect.status {s t : State} {i : Instr} (h : CommandEffect s i t) (hv : ¬∃ a, i = .verify a)
    (hu : i ≠ .update) : t.status = s.status := by
  cases h with
  | verify alg b => exact absurd ⟨alg, rfl⟩ hv
  | update u => exact absurd rfl hu
  | dec bytes => exact (putParse_frame s _).1
  | csinit | csput | xor8 | crc16 | encL1 | encL2 | euler => rfl

/-- MATCH is VERIFY's (rule R26). -/
theorem CommandEffect.matchFlag {s t : State} {i : Instr} (h : CommandEffect s i t) (hi : ¬∃ a, i = .verify a) :
    t.matchFlag = s.matchFlag := by
  by_cases hu : i = .update
  · subst hu
    cases h with
    | update u => exact putUpdate_status_of_ne s u (by decide)
  · exact congrArg (·.getLsbD matchBit) (h.status hi hu)

/-- DEGEN is UPDATE's (rule R26). -/
theorem CommandEffect.degenFlag {s t : State} {i : Instr} (h : CommandEffect s i t) (hi : i ≠ .update) :
    t.degenFlag = s.degenFlag := by
  by_cases hv : ∃ a, i = .verify a
  · obtain ⟨a, rfl⟩ := hv
    cases h with
    | verify _ b => exact setMatch_status_of_ne s b (by decide)
  · exact congrArg (·.getLsbD degenBit) (h.status hv hi)

/-- No command writes ILL (rule R26). -/
theorem CommandEffect.illFlag {s t : State} {i : Instr} (h : CommandEffect s i t) : t.illFlag = s.illFlag := by
  by_cases hu : i = .update
  · subst hu
    cases h with
    | update u => exact putUpdate_status_of_ne s u (by decide)
  · by_cases hv : ∃ a, i = .verify a
    · obtain ⟨a, rfl⟩ := hv
      cases h with
      | verify _ b => exact setMatch_status_of_ne s b (by decide)
    · exact congrArg (·.getLsbD illBit) (h.status hv hu)

/-! ### Host moves and steps -/

/-- The states agree on the registers that no host move writes: the quaternion, ERR, the running registers and
STATUS. -/
structure State.agreesOnOutputs (t s : State) : Prop where
  quat : t.quat = s.quat
  err : t.err = s.err
  xoracc : t.xoracc = s.xoracc
  crcacc : t.crcacc = s.crcacc
  status : t.status = s.status

/-- Taking an event off the queue changes none of these registers. -/
theorem State.agreesOnOutputs.of_taken {t s : State} {rest : List Event} (h : t.agreesOnOutputs (s.taken rest)) :
    t.agreesOnOutputs s := ⟨h.quat, h.err, h.xoracc, h.crcacc, h.status⟩

/-- A host move writes operands alone: no scalar register past TEMP (rule R226). -/
theorem MoveEffect.agreesOnOutputs {s t : State} (h : MoveEffect s t) : t.agreesOnOutputs s := by
  cases h with
  | scalar r v input =>
    refine ⟨setScalars_quat_of_notMem s [(r, v)] fun r' hr' hmem => ?_, rfl, rfl, rfl, rfl⟩
    obtain rfl : r' = r := List.mem_singleton.mp hmem
    have houtput : ∀ r ∈ [SReg.q0, .q1, .q2, .q3], ¬r.number.val < 12 := by decide
    exact houtput r' hr' input
  | len | tms | expect | byte | reply => exact ⟨rfl, rfl, rfl, rfl, rfl⟩

/-- Settles O59, by the event the step takes: what a command changes is one of its own registers. -/
theorem registersHaveTheirWriters : Obligations.RegistersHaveTheirWriters := by
  unfold Obligations.RegistersHaveTheirWriters
  intro s t hstep
  cases step_effect hstep with
  | idle => simp +contextual
  | reset rest event =>
    have hill : (resetBlock (s.taken rest)).illFlag = false := (by decide : State.reset.illFlag = false)
    simp [event, hill]
  | move rest effect =>
    have hkeep : t.agreesOnOutputs s := effect.agreesOnOutputs.of_taken
    simp +contextual [State.matchFlag, State.degenFlag, State.illFlag, hkeep.quat, hkeep.err, hkeep.xoracc,
      hkeep.crcacc, hkeep.status]
  | command rest event effect =>
    have hill : t.illFlag = s.illFlag := effect.illFlag
    refine ⟨fun h => ?_, fun h => ?_, fun h => ?_, fun h => ?_, fun h => ?_,
      by simp +contextual [hill], by simp +contextual [hill]⟩
    · exact .inr (not_imp_comm.mp effect.quat h ▸ event)
    · exact .inr (not_imp_comm.mp effect.err h ▸ event)
    · rcases not_imp_comm.mp effect.accumulators (not_and_or.mpr h) with rfl | ⟨b, rfl⟩
      · exact .inr (.inl event)
      · exact .inr (.inr ⟨b, event⟩)
    · obtain ⟨a, rfl⟩ := not_imp_comm.mp effect.matchFlag h
      exact .inr ⟨a, event⟩
    · exact .inr (not_imp_comm.mp effect.degenFlag h ▸ event)
  | illegal rest event =>
    have hmatch : (s.taken rest).setIll.matchFlag = s.matchFlag := setIll_status_of_ne _ (by decide)
    have hdegen : (s.taken rest).setIll.degenFlag = s.degenFlag := setIll_status_of_ne _ (by decide)
    exact ⟨fun h => absurd rfl h, fun h => absurd rfl h, fun h => (h.elim (absurd rfl) (absurd rfl)),
      fun h => absurd hmatch h, fun h => absurd hdegen h, fun _ _ => event, by simp⟩

end Sys2Proof.Machine
end

section
/-! Where a command stops: the one fault, and the refusals of what nothing has written (rules R39, R53 and R215). -/

namespace Sys2Proof.Machine

/-- A command that reads `BUF[0..LEN)` starts with it, and what follows never faults (rule R50). -/
theorem exec_of_readsBuffer {i : Instr} (h : readsBuffer i) : ∃ f : State → Bytes → Host.Outcome State Fault Refusal,
    (∀ s, exec i s = andThen s.message (f s)) ∧ ∀ s bytes e, f s bytes ≠ .fault e := by
  cases i with
  | xor8 => exact ⟨_, fun _ => rfl, fun _ _ _ => nofun⟩
  | crc16 => exact ⟨_, fun _ => rfl, fun _ _ _ => nofun⟩
  | dec => exact ⟨_, fun _ => rfl, fun _ _ _ => nofun⟩
  | verify alg =>
    refine ⟨_, fun _ => rfl, fun s bytes e hfault => ?_⟩
    rcases andThen_eq_fault.mp hfault with hreg | ⟨_, _, hnext⟩
    · exact requireWritten_ne_fault _ _ _ hreg
    · cases hnext
  | csinit | csput | encL1 | encL2 | update | euler => exact absurd h (by simp [readsBuffer])

theorem encodeKind_ne_fault (s : State) (e : FrameFormat) (f : Fault) : s.encodeKind e ≠ .fault f := by
  intro h
  rcases andThen_eq_fault.mp h with hreg | ⟨_, _, hput⟩
  · exact requireWritten_ne_fault _ _ _ hreg
  · cases hsrc : s.nonFiniteSource e with
    | none =>
      rw [hsrc] at hput
      exact putFrame_ne_fault _ _ _ hput
    | some r =>
      rw [hsrc] at hput
      cases hput

/-- A command that does not read `BUF[0..LEN)` never faults. -/
theorem exec_ne_fault {i : Instr} (h : ¬readsBuffer i) (s : State) (f : Fault) : exec i s ≠ .fault f := by
  cases i with
  | xor8 | crc16 | verify | dec => exact absurd trivial h
  | csinit | csput | euler => exact nofun
  | encL1 => exact encodeKind_ne_fault s _ f
  | encL2 => exact encodeKind_ne_fault s _ f
  | update =>
    intro hfault
    rcases andThen_eq_fault.mp hfault with hreg | ⟨_, _, hnext⟩
    · exact requireWritten_ne_fault _ _ _ hreg
    · cases hnext

theorem exec_eq_fault {i : Instr} {s : State} {f : Fault} : exec i s = .fault f ↔
    readsBuffer i ∧ Config.bufCap < s.len.toNat ∧ f = .noSuchIndex s.len.toNat := by
  by_cases hi : readsBuffer i
  · obtain ⟨g, hexec, hg⟩ := exec_of_readsBuffer hi
    rw [hexec, andThen_eq_fault, message_eq_fault]
    constructor
    · rintro (hlen | ⟨bytes, -, hnext⟩)
      · exact ⟨hi, hlen⟩
      · exact absurd hnext (hg s bytes f)
    · exact fun ⟨_, hlen⟩ => .inl hlen
  · simp [hi, exec_ne_fault hi s f]

/-- A host move faults only through the command it gives. -/
theorem hostMove_fault {m : HostMove} {s : State} {f : Fault} (h : hostMove m s = .fault f) :
    ∃ i, exec i s = .fault f := by
  cases m with
  | cmd w =>
    rcases giveCommand_cases w s with ⟨i, -, hrun⟩ | ⟨_, -, hill⟩
    · exact ⟨i, hrun.symm.trans h⟩
    · cases hill.symm.trans h
  | wrs | rds | wrc | rdc | wrb | rdb => cases h

/-- Settles O26: a fault comes from reading `BUF[0..LEN)`, and the invariant bounds LEN. -/
theorem faultsExactlyPastTheBuffer : Obligations.FaultsExactlyPastTheBuffer := by
  unfold Obligations.FaultsExactlyPastTheBuffer
  refine ⟨fun _ _ _ => exec_eq_fault, fun s f hinv hstep => ?_⟩
  cases hp : s.pending with
  | nil => cases (step_idle hp).symm.trans hstep
  | cons e rest =>
    rw [step_event hp] at hstep
    cases e with
    | reset => cases hstep
    | move m =>
      simp only [performEvent] at hstep
      split at hstep
      · obtain ⟨i, hexec⟩ := hostMove_fault hstep
        obtain ⟨-, hlen, -⟩ := exec_eq_fault.mp hexec
        exact absurd hinv.lenFits hlen.not_ge
      · cases hstep

/-- `BUF[0..LEN)` is refused at its first byte that nothing has written (rule R39). -/
theorem message_refused {s : State} {k : Nat} (hlen : s.len.toNat ≤ Config.bufCap) (hk : k < s.len.toNat)
    (hnone : memRead s.buf k = none) (hsome : ∀ j, j < k → memRead s.buf j ≠ none) :
    s.message = .refused (.unwrittenByte k) := by
  have h := memReadSeq_refused (m := s.buf) (i := 0) hk (by rwa [Nat.zero_add]) (by simpa using hsome)
  rw [State.message, if_pos ((lengthFits_iff _).mpr hlen), h, Nat.zero_add]

/-- A command is refused at one of its operands that has not been written, once it has its bytes (rule R242). -/
theorem exec_refused_of_unwritten {s : State} {i : Instr} {r : Reg} (hr : r ∈ operandsOf i)
    (hw : s.isWritten r = false) (hbytes : readsBuffer i → ∃ bytes, s.holds bytes) :
    ∃ r' ∈ operandsOf i, s.isWritten r' = false ∧ exec i s = .refused (.unwrittenRegister r') := by
  obtain ⟨r', hr', hw', hreq⟩ := requireWritten_refused hr hw
  refine ⟨r', hr', hw', ?_⟩
  cases i with
  | verify alg =>
    obtain ⟨bytes, hholds⟩ := hbytes trivial
    refine andThen_eq_refused.mpr (.inr ⟨bytes, message_eq_next.mpr hholds, ?_⟩)
    exact andThen_eq_refused.mpr (.inl hreq)
  | encL1 => exact andThen_eq_refused.mpr (.inl hreq)
  | encL2 => exact andThen_eq_refused.mpr (.inl hreq)
  | update => exact andThen_eq_refused.mpr (.inl hreq)
  | csinit | csput | xor8 | crc16 | dec | euler => exact absurd hr List.not_mem_nil

/-- Settles O25: bytes come before registers, and the operands are a table. -/
theorem unwrittenLocationRefusesCommands : Obligations.UnwrittenLocationRefusesCommands := by
  unfold Obligations.UnwrittenLocationRefusesCommands
  refine ⟨fun s i k hi hlen hk hnone hsome => ?_, fun s i r => exec_refused_of_unwritten, fun _ => rfl, rfl, rfl, rfl,
    ?_⟩
  · obtain ⟨f, hexec, -⟩ := exec_of_readsBuffer hi
    rw [hexec, message_refused hlen hk hnone hsome, andThen_refused]
  · rintro i (rfl | ⟨b, rfl⟩ | rfl | rfl | rfl | rfl) <;> rfl

end Sys2Proof.Machine
end

section
/-! The Checksum Engine: the whole-buffer digests, and their agreement with the running registers (rules R104 to
R111). -/

namespace Sys2Proof.Machine

theorem exec_xor8_of_holds {s : State} {bytes : Bytes} (h : s.holds bytes) :
    exec .xor8 s = .next (s.setDigest (digest .xor8 bytes)) :=
  andThen_eq_next.mpr ⟨bytes, message_eq_next.mpr h, rfl⟩

theorem exec_crc16_of_holds {s : State} {bytes : Bytes} (h : s.holds bytes) :
    exec .crc16 s = .next (s.setDigest (digest .crc16 bytes)) :=
  andThen_eq_next.mpr ⟨bytes, message_eq_next.mpr h, rfl⟩

/-- Settles O21: the message held is what XOR8 reads. -/
theorem xorCommandDigestsBuffer : Obligations.XorCommandDigestsBuffer := by
  unfold Obligations.XorCommandDigestsBuffer
  exact ⟨by decide, fun _ _ h => exec_xor8_of_holds h⟩

/-- Settles O22: the message held is what CRC16 reads. -/
theorem crcCommandDigestsBuffer : Obligations.CrcCommandDigestsBuffer := by
  unfold Obligations.CrcCommandDigestsBuffer
  exact ⟨by decide, fun _ _ h => exec_crc16_of_holds h⟩

/-- With LEN = 0 the message is empty, whatever the buffer holds. -/
theorem holds_nil {s : State} (h : s.len = 0) : s.holds [] :=
  ⟨by rw [h]; rfl, Nat.zero_le _, fun i hi => absurd hi (Nat.not_lt_zero i)⟩

/-- Settles O24: the digests of the empty message are the seeds. -/
theorem emptyInputDigests : Obligations.EmptyInputDigests := by
  unfold Obligations.EmptyInputDigests
  exact ⟨rfl, rfl, fun _ h => ⟨exec_xor8_of_holds (holds_nil h), exec_crc16_of_holds (holds_nil h)⟩⟩

/-- CSPUTs in turn fold the bytes into the running registers (rule R105). -/
theorem execAll_csputs (bytes : Bytes) (s : State) : execAll (bytes.map .csput) s =
    .next { s with xoracc := bytes.foldl xorStep s.xoracc, crcacc := bytes.foldl crcStep s.crcacc } := by
  induction bytes generalizing s with
  | nil => rfl
  | cons b bytes ih => exact ih { s with xoracc := xorStep s.xoracc b, crcacc := crcStep s.crcacc b }

/-- Settles O20: both digests are folds from the seeds, which CSINIT and reset load; and the commands of the buffer
write neither running register. -/
theorem streamingMatchesWholeBuffer : Obligations.StreamingMatchesWholeBuffer := by
  unfold Obligations.StreamingMatchesWholeBuffer
  refine ⟨fun s bytes => ?_, fun bytes => execAll_csputs bytes State.reset, fun i s t hi hexec => ?_⟩
  · exact execAll_csputs bytes { s with xoracc := xorSeed, crcacc := crcInit }
  · refine (exec_effect hexec).accumulators ?_
    rcases hi with rfl | rfl | ⟨a, rfl⟩ | rfl | rfl | rfl <;> simp

end Sys2Proof.Machine
end

section
/-! Reset, and what the host writes and reads (rules R38, R39, R56, R74, R75, R226 and R240). -/

namespace Sys2Proof.Machine

/-! ### Reset -/

/-- The registers that reset marks as written are those that rule R38 names. -/
theorem reset_isWritten (r : Reg) : State.reset.isWritten r = decide (r ∈ Reg.setByReset) := by
  have hnone : ({ State.reset with written := Vector.replicate 44 false } : State).isWritten r = false := by
    simp [State.isWritten, Vector.get_eq_getElem]
  have h := isWritten_markAll { State.reset with written := Vector.replicate 44 false } Reg.setByReset r
  rwa [hnone, Bool.or_false, markAll_eq] at h

/-- Settles O10: the reset event loads the fields of State.reset but for the queue and the count. -/
theorem resetEventLoadsResetValues : Obligations.ResetEventLoadsResetValues := by
  unfold Obligations.ResetEventLoadsResetValues
  refine ⟨⟨rfl, rfl, rfl, rfl, rfl, rfl, rfl, reset_isWritten⟩, fun s rest hp => ?_⟩
  exact ⟨_, step_event hp, rfl, rfl, rfl, rfl, rfl, rfl, rfl, reset_isWritten⟩

/-! ### Writes -/

theorem scalars_getElem? (s : State) {n : Nat} {r : SReg} (h : r.number.val = n) :
    s.scalars[n]? = some (s.scalar r) := by
  subst h
  exact Vector.getElem?_eq_getElem r.number.isLt

/-- A move that exists has its effect. -/
theorem step_allowed {s base : State} {m : HostMove} (h : s.nextMove m base) (ha : m.allowed = true) :
    step s = hostMove m base := (step_move h).trans (if_pos ha)

/-- WRS writes the register of its number (rule R226). -/
theorem step_wrs {s base : State} {n : Nat} {v : Scalar} {r : SReg} (hn : n < 12) (hr : SReg.ofNumber n = some r)
    (h : s.nextMove (.wrs n v) base) : step s = .next (base.setScalar r v) := by
  rw [step_allowed h (decide_eq_true hn)]
  simp only [hostMove, writeScalar, hr]

theorem step_wrc {s base : State} {n v : Nat} {r : CReg} (ha : HostMove.wrcAllowed n v = true)
    (hr : CReg.ofNumber n = some r) (h : s.nextMove (.wrc n v) base) : step s = .next (base.setControl r v) := by
  rw [step_allowed h ha]
  simp only [hostMove, writeControl, hr]

/-- Settles O6: the numbers of the tables name the registers, and a write is the register and its mark. -/
theorem hostWritesOneRegister : Obligations.HostWritesOneRegister := by
  unfold Obligations.HostWritesOneRegister
  refine ⟨fun s base n v r hn hmem h => ?_, fun s base v hv h => ?_, fun s base v hv h => ?_, fun s base v hv h => ?_⟩
  · obtain ⟨hnum, hr⟩ := mem_scalarNumbers.mp hmem
    have hstep := step_wrs hn hr h
    obtain ⟨rest, -, rfl⟩ := h
    refine ⟨_, hstep, ?_, fun r' => scalar_setScalar _ r r' v, setScalars_marks (s.taken rest) [(r, v)], rfl⟩
    rw [scalars_getElem? _ hnum, scalar_setScalar, if_pos rfl]
  · have hstep := step_wrc (wrcAllowed_iff.mpr (.inl ⟨rfl, hv⟩)) rfl h
    obtain ⟨rest, -, rfl⟩ := h
    have hcap := bufCap_le
    exact ⟨_, hstep, (BitVec.toNat_ofNat _ _).trans (Nat.mod_eq_of_lt (by omega)), rfl⟩
  · have hstep := step_wrc (wrcAllowed_iff.mpr (.inr (.inl ⟨rfl, hv⟩))) rfl h
    obtain ⟨rest, -, rfl⟩ := h
    exact ⟨_, hstep, (BitVec.toNat_ofNat _ _).trans (Nat.mod_eq_of_lt hv), markWritten_marks (s.taken rest) _, rfl⟩
  · have hstep := step_wrc (wrcAllowed_iff.mpr (.inr (.inr ⟨rfl, hv⟩))) rfl h
    obtain ⟨rest, -, rfl⟩ := h
    exact ⟨_, hstep, (BitVec.toNat_ofNat _ _).trans (Nat.mod_eq_of_lt hv), markWritten_marks (s.taken rest) _, rfl⟩

/-! ### Reads -/

theorem shownScalar_of_written {s : State} {r : SReg} (h : s.isWritten (.scalar r) = true) :
    s.shownScalar r = s.scalar r := if_pos h

theorem shownScalar_of_unwritten {s : State} {r : SReg} (h : s.isWritten (.scalar r) = false) :
    s.shownScalar r = Config.freeScalar s.resetCount r := if_neg (by simp [h])

theorem shownControl_of_written {s : State} {r : CReg} (h : s.isWritten (.control r) = true) :
    s.shownControl r = s.control r := if_pos h

theorem shownControl_of_unwritten {s : State} {r : CReg} (h : s.isWritten (.control r) = false) :
    s.shownControl r = ((Config.freeControl s.resetCount r).setWidth r.width).setWidth 32 := if_neg (by simp [h])

/-- RDS replies with what the register of its number shows (rule R226). -/
theorem step_rds {s base : State} {n : Nat} {r : SReg} (hmem : (n, r) ∈ scalarNumbers)
    (h : s.nextMove (.rds n) base) : step s = .next { base with reply := some (.scalar (s.shownScalar r)) } := by
  obtain ⟨hnum, hr⟩ := mem_scalarNumbers.mp hmem
  have hn : n < 33 := hnum ▸ r.number.isLt
  rw [step_allowed h (decide_eq_true hn)]
  obtain ⟨rest, -, rfl⟩ := h
  simp only [hostMove, readScalar, hr, Option.map_some]
  rfl

/-- The tables of rules R75 and R27 are the numbering, the widths and the values of the model. -/
theorem of_mem_controlNumbers {s : State} {n : Nat} {r : CReg} {w : Nat} {v : U32}
    (h : (n, r, w, v) ∈ s.controlNumbers) :
    n < 11 ∧ CReg.ofNumber n = some r ∧ w = r.width ∧ v = s.control r := by
  have hrows : ∀ e ∈ s.controlNumbers,
      e.1 < 11 ∧ CReg.ofNumber e.1 = some e.2.1 ∧ e.2.2.1 = e.2.1.width ∧ e.2.2.2 = s.control e.2.1 := by
    simp [State.controlNumbers, CReg.ofNumber, CReg.all, CReg.width, State.control]
  exact hrows _ h

/-- RDC replies with what the register of its number shows (rule R226). -/
theorem step_rdc {s base : State} {n : Nat} {r : CReg} (hn : n < 11) (hr : CReg.ofNumber n = some r)
    (h : s.nextMove (.rdc n) base) : step s = .next { base with reply := some (.control (s.shownControl r)) } := by
  rw [step_allowed h (decide_eq_true hn)]
  obtain ⟨rest, -, rfl⟩ := h
  simp only [hostMove, readControl, hr, Option.map_some]
  rfl

/-- RDB replies with the byte, or the free value of its index (rule R226). -/
theorem step_rdb {s base : State} {i : Nat} (hi : i < Config.bufCap) (h : s.nextMove (.rdb i) base) :
    step s = .next { base with
      reply := some (.byte ((memRead s.buf i).getD (Config.freeByte s.resetCount i))) } := by
  rw [step_allowed h ((indexExists_iff i).mpr hi)]
  obtain ⟨rest, -, rfl⟩ := h
  rfl

/-- A control register has at most 32 bits (rule R27). -/
theorem CReg_width_le (r : CReg) : r.width ≤ 32 := by
  cases r <;> decide

/-- A value cut to the width of a register is below its bound. -/
theorem setWidth_toNat_lt (v : U32) {w : Nat} (hw : w ≤ 32) : ((v.setWidth w).setWidth 32).toNat < 2 ^ w := by
  rw [BitVec.toNat_setWidth_of_le hw]
  exact BitVec.isLt _

/-- A reading move given twice replies the same twice (rule R56). -/
theorem step_read_twice {s : State} {m : HostMove} {rest : List Event} (hm : readsLocation m)
    (hp : s.pending = .move m :: .move m :: rest) :
    ∃ t, step s = .next t ∧ step t = .next { t with pending := rest } := by
  obtain ⟨ha, r, hrun⟩ := hostMove_reads hm s
  refine ⟨{ s with pending := .move m :: rest, reply := r }, ?_, ?_⟩
  · rw [step_allowed ⟨_, hp, rfl⟩ ha, hrun]
  · exact (step_allowed ⟨rest, rfl, rfl⟩ ha).trans (hrun rest none)

/-- Settles O8: a read replies with what the location shows, which depends on the reset count alone where nothing has
been written. -/
theorem hostReadsReturnValuesAlone : Obligations.HostReadsReturnValuesAlone := by
  unfold Obligations.HostReadsReturnValuesAlone
  refine ⟨fun s base n r hmem hw h => ?_, fun s base n r w v hmem hw h => ?_, fun s base i b hi hb h => ?_,
    fun s s' base base' n r hmem hw hw' hc h h' => ?_, fun s s' base base' n r w v hmem hw hw' hc h h' => ?_,
    fun s s' base base' i hi hb hb' hc h h' => ?_, fun s m rest => step_read_twice⟩
  · exact ⟨scalars_getElem? s (mem_scalarNumbers.mp hmem).1, shownScalar_of_written hw ▸ step_rds hmem h⟩
  · obtain ⟨hn, hr, -, rfl⟩ := of_mem_controlNumbers hmem
    exact shownControl_of_written hw ▸ step_rdc hn hr h
  · have hstep := step_rdb hi h
    rwa [hb] at hstep
  · refine ⟨_, step_rds hmem h, ?_⟩
    rw [step_rds hmem h', shownScalar_of_unwritten hw, shownScalar_of_unwritten hw', hc]
  · obtain ⟨hn, hr, rfl, -⟩ := of_mem_controlNumbers hmem
    refine ⟨_, ?_, step_rdc hn hr h, ?_⟩
    · rw [shownControl_of_unwritten hw]
      exact setWidth_toNat_lt _ (CReg_width_le r)
    · rw [step_rdc hn hr h', shownControl_of_unwritten hw, shownControl_of_unwritten hw', hc]
  · refine ⟨_, step_rdb hi h, ?_⟩
    rw [step_rdb hi h', hb, hb', hc]

end Sys2Proof.Machine
end

section
/-! DEC on a frame that is right: the parse of what `checkedFrame` describes, and the writes of a success (rules R142 to
R153). -/

namespace Sys2Proof.Machine

/-! ### Markers, digest and pieces -/

theorem findIdx?_append_cons {α : Type} {p : α → Bool} {l m : List α} {b : α} (hl : ∀ x ∈ l, p x = false)
    (hb : p b = true) : (l ++ b :: m).findIdx? p = some l.length := by
  rw [List.findIdx?_append, List.findIdx?_eq_none_iff.mpr hl, Option.none_or, List.findIdx?_cons, if_pos hb]
  simp

theorem beq_eq_false_of_notMem {l : Bytes} {c x : Byte} (h : c ∉ l) (hx : x ∈ l) : (x == c) = false :=
  beq_eq_false_iff_ne.mpr fun heq => h (heq ▸ hx)

/-- The markers of a framed sequence are found (rule R144). -/
theorem splitMarkers_of_framedAs {bytes payload dfield : Bytes} (h : framedAs bytes payload dfield) :
    splitMarkers bytes = some (payload, dfield) := by
  obtain ⟨before, rfl, hdollar, hstar, hpayload⟩ := h
  have hi : (before ++ chDollar :: payload ++ chStar :: dfield).findIdx? (· == chDollar) = some before.length := by
    rw [List.append_assoc, List.cons_append]
    exact findIdx?_append_cons (fun x => beq_eq_false_of_notMem hdollar) (beq_self_eq_true _)
  have hj : (before ++ chDollar :: payload ++ chStar :: dfield).findIdx? (· == chStar)
      = some (before ++ chDollar :: payload).length := by
    refine findIdx?_append_cons (fun x => beq_eq_false_of_notMem ?_) (beq_self_eq_true _)
    simp only [List.mem_append, List.mem_cons, not_or]
    exact ⟨hstar, by decide, hpayload⟩
  have hdrop : (before ++ chDollar :: payload ++ chStar :: dfield).drop (before.length + 1)
      = payload ++ chStar :: dfield := by
    rw [List.append_assoc, ← List.drop_drop, List.drop_left]
    rfl
  have hrest : (before ++ chDollar :: payload ++ chStar :: dfield).drop ((before ++ chDollar :: payload).length + 1)
      = dfield := by
    rw [← List.drop_drop, List.drop_left]
    rfl
  have hlen : (before ++ chDollar :: payload).length = before.length + 1 + payload.length := by
    rw [List.length_append, List.length_cons]
    omega
  simp only [splitMarkers, hi, hj]
  rw [if_neg (by omega), hdrop, hrest, hlen, Nat.add_sub_cancel_left, List.take_left]

theorem hexW_length (v w : Nat) : (hexW v w).length = w := by
  induction w with
  | zero => rfl
  | succ w ih => rw [hexW, List.length_cons, ih]

/-- The digest field of a payload tells its algorithm, and is right (rule R146). -/
theorem checkDigest_digestField (a : Alg) (payload : Bytes) : checkDigest payload (digestField a payload) = some a := by
  have hlen : algOfLength (digestField a payload).length = some a := by
    rw [digestField, hexW_length]
    cases a <;> rfl
  simp only [checkDigest, hlen, if_pos]

/-- A sequence without a separator is one piece (rule R147). -/
theorem splitOn_of_notMem {sep : Byte} {p : Bytes} (h : sep ∉ p) : splitOn sep p = [p] := by
  induction p with
  | nil => rfl
  | cons b p ih =>
    rw [List.mem_cons, not_or] at h
    rw [splitOn, ih h.2]
    exact if_neg (Ne.symm h.1)

/-- The text before the first separator is the first piece (rule R147). -/
theorem splitOn_append_sep {sep : Byte} {p : Bytes} (h : sep ∉ p) {bytes : Bytes} {q : Bytes} {ps : List Bytes}
    (hsplit : splitOn sep bytes = q :: ps) : splitOn sep (p ++ sep :: bytes) = p :: q :: ps := by
  induction p with
  | nil =>
    rw [List.nil_append, splitOn, hsplit]
    exact if_pos rfl
  | cons b p ih =>
    rw [List.mem_cons, not_or] at h
    rw [List.cons_append, splitOn, ih h.2]
    exact if_neg (Ne.symm h.1)

/-- Splitting at commas finds the pieces that were joined (rule R147). -/
theorem splitOn_joinComma (p : Bytes) (ps : List Bytes) (h : ∀ q ∈ p :: ps, chComma ∉ q) :
    splitOn chComma (joinComma (p :: ps)) = p :: ps := by
  induction ps generalizing p with
  | nil => exact splitOn_of_notMem (h p List.mem_cons_self)
  | cons q ps ih =>
    exact splitOn_append_sep (h p List.mem_cons_self) (ih q fun r hr => h r (List.mem_cons_of_mem p hr))

/-- The parse of a frame with right markers and digest is that of its payload (rules R144 and R146). -/
theorem parseFrame_of_checkedFrame {T : Type} (N : Num T) (table : List FrameFormat) {bytes : Bytes} {a : Alg}
    {tag : Bytes} {rest : List Bytes} (h : checkedFrame bytes a tag rest) :
    parseFrame N table bytes = parsePayload N table a (joinComma (tag :: rest)) := by
  simp only [parseFrame, splitMarkers_of_framedAs h.1, checkDigest_digestField]

/-- With a known tag under its algorithm and the right number of pieces, the payload is parsed field by field (rules
R147 to R149). -/
theorem parsePayload_of_count {T : Type} (N : Num T) {table : List FrameFormat} {e : FrameFormat} {rest : List Bytes}
    (hfind : findFormat table e.tag = some e) (hcomma : ∀ p ∈ e.tag :: rest, chComma ∉ p)
    (hcount : rest.length = 1 + e.fields.length) :
    parsePayload N table e.alg (joinComma (e.tag :: rest)) = parseFields N e rest := by
  simp only [parsePayload, splitOn_joinComma _ _ hcomma, hfind, ne_eq, not_true_eq_false, if_false, hcount]

/-- The tags of the table tell its entries apart (rule R76). -/
theorem findFormat_tag : ∀ e ∈ Config.fmtTable, findFormat Config.fmtTable e.tag = some e := by decide

theorem parseFields_of_parse {T : Type} {N : Num T} {e : FrameFormat} {ts : Bytes} {fields : List Bytes} {time : U32}
    {values : List T} (hts : parseTs ts = some time) (hvs : fields.map (parseNum N) = values.map some) :
    parseFields N e (ts :: fields) = .ok ⟨e.kind, time, values⟩ := by
  simp only [parseFields, hts, parseNums_eq_some.mpr hvs]

/-! ### The writes of a success -/

/-- Result register `k` has number `25 + k` (rule R74). -/
theorem SReg_ofNumber_result (k : Nat) : SReg.ofNumber (25 + k) = SReg.results[k]? :=
  (List.getElem?_drop (xs := SReg.all) (i := 25) (j := k)).symm

theorem map_fst_zip_eq_take {α β : Type} (as : List α) (bs : List β) :
    (as.zip bs).map Prod.fst = as.take bs.length := by
  induction as generalizing bs with
  | nil => simp
  | cons a as ih => cases bs <;> simp [ih]

/-- Writing distinct registers in turn: each holds its own value afterwards. -/
theorem scalar_setScalars_zip (s : State) {rs : List SReg} (hnodup : rs.Nodup) {vs : List Scalar} {k : Nat} {r : SReg}
    (hr : rs[k]? = some r) {v : Scalar} (hv : vs[k]? = some v) : (s.setScalars (rs.zip vs)).scalar r = v := by
  induction rs generalizing s vs k with
  | nil => simp at hr
  | cons r' rs ih =>
    obtain ⟨hnotMem, hnodup⟩ := List.nodup_cons.mp hnodup
    cases vs with
    | nil => simp at hv
    | cons v' vs =>
      rw [List.zip_cons_cons, setScalars_cons]
      cases k with
      | zero =>
        obtain rfl : r' = r := by simpa using hr
        obtain rfl : v' = v := by simpa using hv
        rw [scalar_setScalars_of_notMem, scalar_setScalar, if_pos rfl]
        exact fun hmem => hnotMem (List.mem_of_mem_take (map_fst_zip_eq_take rs vs ▸ hmem))
      | succ k => exact ih (s.setScalar r' v') hnodup hr hv

/-- The registers that count as written after a success: the results of the parse, and one register a value (rule
R39). -/
theorem putParsed_marks (s : State) (p : Parsed Scalar) :
    (s.putParsed p).marks s (decResults ++ (SReg.results.take p.values.length).map Reg.scalar) := by
  intro r
  have hws : (SReg.results.zip p.values).map (fun w => Reg.scalar w.1)
      = (SReg.results.take p.values.length).map Reg.scalar := by
    rw [← map_fst_zip_eq_take, List.map_map]
    rfl
  rw [putParsed_isWritten, isWritten_setScalars, hws, ← Bool.or_assoc, ← Bool.decide_or]
  exact congrArg (· || s.isWritten r) (decide_eq_decide.mpr List.mem_append.symm)

/-- A success changes ERR, the results and the marks alone (rule R153). -/
theorem putParsed_frame (s : State) (p : Parsed Scalar) :
    { s.putParsed p with
      scalars := s.scalars, err := s.err, rkind := s.rkind, rtms := s.rtms, rnf := s.rnf,
      written := s.written } = s :=
  congrArg (fun t : State => { t with err := s.err, rkind := s.rkind, rtms := s.rtms, rnf := s.rnf })
    (setScalars_frame s (SReg.results.zip p.values))

/-- A result register holds the value of its place (rule R153). -/
theorem putParsed_result (s : State) (p : Parsed Scalar) {k : Nat} (hk : k < p.values.length) {r : SReg}
    (hr : SReg.ofNumber (25 + k) = some r) : (s.putParsed p).scalar r = p.values[k] := by
  rw [SReg_ofNumber_result] at hr
  rw [putParsed_scalar]
  exact scalar_setScalars_zip s (by decide) hr (List.getElem?_eq_getElem hk)

/-- A register that is none of the results written keeps its value (rule R153). -/
theorem putParsed_scalar_of_ne (s : State) (p : Parsed Scalar) {r : SReg}
    (hr : ∀ k, k < p.values.length → SReg.ofNumber (25 + k) ≠ some r) : (s.putParsed p).scalar r = s.scalar r := by
  rw [putParsed_scalar]
  refine scalar_setScalars_of_notMem s _ r fun hmem => ?_
  rw [map_fst_zip_eq_take] at hmem
  obtain ⟨k, hk, hget⟩ := List.getElem_of_mem hmem
  rw [List.length_take] at hk
  refine hr k (by omega) ?_
  rw [SReg_ofNumber_result, List.getElem?_eq_some_iff]
  exact ⟨by omega, by rwa [List.getElem_take] at hget⟩

theorem exec_dec_of_holds {s : State} {bytes : Bytes} (h : s.holds bytes) :
    exec .dec s = .next (s.putParse (parseFrame num Config.fmtTable bytes)) :=
  andThen_eq_next.mpr ⟨bytes, message_eq_next.mpr h, rfl⟩

/-- Settles O43: the parse succeeds with the values given, and a success writes them. -/
theorem decSuccessWritesResults : Obligations.DecSuccessWritesResults := by
  unfold Obligations.DecSuccessWritesResults
  refine ⟨by decide, fun s bytes e ts fields time values hholds he hframe hcount hts hvs => ?_⟩
  have hparse : parseFrame num Config.fmtTable bytes = .ok ⟨e.kind, time, values⟩ := by
    rw [parseFrame_of_checkedFrame _ _ hframe, parsePayload_of_count _ (findFormat_tag e he) hframe.2
      (by rw [List.length_cons, hcount, Nat.add_comm]), parseFields_of_parse hts hvs]
  have hlen : values.length = e.fields.length := by
    have h := congrArg List.length hvs
    rw [List.length_map, List.length_map] at h
    rw [← h, hcount]
  have hmarks := putParsed_marks s ⟨e.kind, time, values⟩
  rw [hlen] at hmarks
  refine ⟨s.putParsed ⟨e.kind, time, values⟩, ?_, rfl, rfl, rfl, ?_, fun k hk r => putParsed_result s _ hk,
    fun r => putParsed_scalar_of_ne s ⟨e.kind, time, values⟩, hmarks, putParsed_frame s _⟩
  · rw [exec_dec_of_holds hholds, hparse]
    rfl
  · have hfew : ∀ e ∈ Config.fmtTable, e.fields.length < 2 ^ 8 := by decide
    exact (BitVec.toNat_ofNat _ _).trans (hlen ▸ Nat.mod_eq_of_lt (hlen ▸ hfew e he))

end Sys2Proof.Machine
end

section
/-! Zeros through UPDATE: degenerate vectors, and a sample without rotation (rules R174, R175 and R190); the formulas of
EULER (rule R182). -/

namespace Sys2Proof.Machine

/-! ### Zeros through the operations of binary32 -/

/-- A zero is one of the two zeros. -/
theorem b32IsZero_iff_eq {v : Scalar} : b32IsZero v = true ↔ ∃ neg, v = .fin neg 0 := by
  cases v with
  | nan | inf => simp [b32IsZero]
  | fin neg c =>
    refine decide_eq_true_iff.trans ⟨fun h => ⟨neg, congrArg _ (Fin.ext h)⟩, ?_⟩
    rintro ⟨neg', h⟩
    injection h with _ hc
    exact congrArg Fin.val hc

theorem b32Finite_of_isZero {v : Scalar} (h : b32IsZero v = true) : b32Finite v = true := ((b32IsZero_iff v).mp h).1

theorem b32IsZero_mul_left {z v : Scalar} (hz : b32IsZero z = true) (hv : b32Finite v = true) :
    b32IsZero (b32Mul z v) = true := (zeroIsAbsorbingAndNeutral v z hv hz).1

theorem b32IsZero_mul_right {v z : Scalar} (hv : b32Finite v = true) (hz : b32IsZero z = true) :
    b32IsZero (b32Mul v z) = true := (zeroIsAbsorbingAndNeutral v z hv hz).2.1

theorem b32IsZero_add {v z : Scalar} (hv : b32IsZero v = true) (hz : b32IsZero z = true) :
    b32IsZero (b32Add v z) = true := by
  obtain ⟨hfin, hval⟩ := (b32IsZero_iff v).mp hv
  obtain ⟨-, -, hsumFin, hsumVal, -⟩ := zeroIsAbsorbingAndNeutral v z hfin hz
  exact (b32IsZero_iff _).mpr ⟨hsumFin, hsumVal.trans hval⟩

theorem b32IsZero_negate {v : Scalar} (h : b32IsZero v = true) : b32IsZero (b32Negate v) = true := by
  obtain ⟨neg, rfl⟩ := b32IsZero_iff_eq.mp h
  rfl

theorem b32IsZero_sub {v z : Scalar} (hv : b32IsZero v = true) (hz : b32IsZero z = true) :
    b32IsZero (b32Sub v z) = true := b32IsZero_add hv (b32IsZero_negate hz)

theorem b32IsZero_sqrt {v : Scalar} (h : b32IsZero v = true) : b32IsZero (b32Sqrt v) = true := by
  obtain ⟨neg, rfl⟩ := b32IsZero_iff_eq.mp h
  rfl

/-- One plus a zero is one. -/
theorem b32One_add_zero {z : Scalar} (h : b32IsZero z = true) : b32Add b32One z = b32One := by
  obtain ⟨neg, rfl⟩ := b32IsZero_iff_eq.mp h
  cases neg <;> decide +kernel

/-- The positive zero plus a zero is the positive zero. -/
theorem b32Zero_add_zero {z : Scalar} (h : b32IsZero z = true) : b32Add b32Zero z = b32Zero := by
  obtain ⟨neg, rfl⟩ := b32IsZero_iff_eq.mp h
  cases neg <;> decide +kernel

/-! ### Degenerate vectors -/

/-- Every component is a zero, of either sign. -/
def zeroVec (v : Vec3 Scalar) : Prop := b32IsZero v.x = true ∧ b32IsZero v.y = true ∧ b32IsZero v.z = true

/-- Every component is a zero, of either sign. -/
def zeroQuat (q : Quat Scalar) : Prop :=
  b32IsZero q.q0 = true ∧ b32IsZero q.q1 = true ∧ b32IsZero q.q2 = true ∧ b32IsZero q.q3 = true

/-- The magnitude of a zero vector is a zero (rules R174 and R175). -/
theorem zeroVec.magnitude {v : Vec3 Scalar} (h : zeroVec v) : num.isZero (vecMagnitude num v) = true := by
  have hsq : ∀ {x : Scalar}, b32IsZero x = true → b32IsZero (b32Mul x x) = true := fun hx =>
    b32IsZero_mul_left hx (b32Finite_of_isZero hx)
  obtain ⟨hx, hy, hz⟩ := h
  exact b32IsZero_sqrt (b32IsZero_add (b32IsZero_add (hsq hx) (hsq hy)) (hsq hz))

/-- AN0 to AN2 keep their marks where their step was skipped (rule R39). -/
theorem putUpdate_isWritten_an (s : State) {u : UpdateResult Scalar} (h : u.accel = none) :
    ∀ r ∈ [Reg.scalar .an0, .scalar .an1, .scalar .an2], (s.putUpdate u).isWritten r = s.isWritten r := by
  intro r hr
  rw [putUpdate_marks s u r, h, decide_eq_false, Bool.false_or]
  generalize u.mag.isSome = done
  revert done r
  decide

/-- MN0 to MN2 keep their marks where their step was skipped (rule R39). -/
theorem putUpdate_isWritten_mn (s : State) {u : UpdateResult Scalar} (h : u.mag = none) :
    ∀ r ∈ [Reg.scalar .mn0, .scalar .mn1, .scalar .mn2], (s.putUpdate u).isWritten r = s.isWritten r := by
  intro r hr
  rw [putUpdate_marks s u r, h, decide_eq_false, Bool.false_or]
  generalize u.accel.isSome = done
  revert done r
  decide

section
variable (a g m : Vec3 Scalar) (dt : Scalar) (q : Quat Scalar)

/-- With a vector of magnitude zero, UPDATE reports it and skips the magnetometer (rules R174 and R175). -/
theorem updateResult_of_degenerate
    (h : num.isZero (vecMagnitude num a) = true ∨ num.isZero (vecMagnitude num m) = true) :
    (updateResult num a g m dt q).mag = none ∧ (updateResult num a g m dt q).degen = true := by
  rw [updateResult_mag, updateResult_degen, if_pos (Bool.or_eq_true_iff.mpr h)]
  exact ⟨rfl, Bool.or_eq_true_iff.mpr h⟩

/-- With a zero accelerometer, UPDATE skips it (rule R174). -/
theorem updateResult_accel_of_zeroVec (h : zeroVec a) : (updateResult num a g m dt q).accel = none := by
  rw [updateResult_accel, normalizeVec_eq, if_pos h.magnitude]

end

/-- Settles O48: the magnitude of a zero vector is zero, and a skipped step writes and marks nothing. -/
theorem zeroVectorsSetDegen : Obligations.ZeroVectorsSetDegen := by
  unfold Obligations.ZeroVectorsSetDegen
  refine fun s hs => ⟨fun hzero => ⟨_, exec_update_next hs, ?_⟩, fun hzero => ⟨_, exec_update_next hs, ?_⟩⟩
  · have hvec : zeroVec s.accel := hzero
    have haccel := updateResult_accel_of_zeroVec s.accel s.gyro s.mag (s.scalar .dt) s.quat hvec
    obtain ⟨hmag, hdegen⟩ := updateResult_of_degenerate s.accel s.gyro s.mag (s.scalar .dt) s.quat (.inl hvec.magnitude)
    rw [putUpdate_degenFlag, putUpdate_normAccel, putUpdate_normMag, haccel, hmag, hdegen]
    refine ⟨rfl, rfl, rfl, fun r hr => ?_⟩
    rcases List.mem_append.mp (show r ∈ [Reg.scalar .an0, .scalar .an1, .scalar .an2] ++
        [.scalar .mn0, .scalar .mn1, .scalar .mn2] from hr) with han | hmn
    · exact putUpdate_isWritten_an s haccel r han
    · exact putUpdate_isWritten_mn s hmag r hmn
  · have hvec : zeroVec s.mag := hzero
    obtain ⟨hmag, hdegen⟩ := updateResult_of_degenerate s.accel s.gyro s.mag (s.scalar .dt) s.quat (.inr hvec.magnitude)
    rw [putUpdate_degenFlag, putUpdate_normMag, hmag, hdegen]
    exact ⟨rfl, rfl, putUpdate_isWritten_mn s hmag⟩

/-! ### A sample without rotation -/

/-- A zero rate is zero in radians (rule R172). -/
theorem zeroVec.gyroRates {g : Vec3 Scalar} (h : zeroVec g) : zeroVec (gyroRates num g) := by
  obtain ⟨neg, code, hd2r⟩ := degToRad_finite
  have hfin : b32Finite (degToRad num) = true := (b32Finite_iff _).mpr ⟨neg, code, hd2r⟩
  obtain ⟨hx, hy, hz⟩ := h
  exact ⟨b32IsZero_mul_left hx hfin, b32IsZero_mul_left hy hfin, b32IsZero_mul_left hz hfin⟩

/-- The derivative of a finite quaternion is zero at zero rates (rule R173). -/
theorem quatDerivative_of_zeroVec {q : Quat Scalar} (hq : finiteQuat q) {w : Vec3 Scalar} (hw : zeroVec w) :
    zeroQuat (quatDerivative num q w) := by
  obtain ⟨h0, h1, h2, h3⟩ := hq
  obtain ⟨hx, hy, hz⟩ := hw
  have hneg : b32Finite (b32Negate q.q1) = true := by
    obtain ⟨neg, c, hc⟩ := (b32Finite_iff _).mp h1
    rw [hc]
    rfl
  have hhalf : ∀ {z : Scalar}, b32IsZero z = true → b32IsZero (b32Mul b32Half z) = true := b32IsZero_mul_right rfl
  have hmul : ∀ {v z : Scalar}, b32Finite v = true → b32IsZero z = true → b32IsZero (b32Mul v z) = true :=
    b32IsZero_mul_right
  exact ⟨hhalf (b32IsZero_sub (b32IsZero_sub (hmul hneg hx) (hmul h2 hy)) (hmul h3 hz)),
    hhalf (b32IsZero_sub (b32IsZero_add (hmul h0 hx) (hmul h2 hz)) (hmul h3 hy)),
    hhalf (b32IsZero_add (b32IsZero_sub (hmul h0 hy) (hmul h1 hz)) (hmul h3 hx)),
    hhalf (b32IsZero_sub (b32IsZero_add (hmul h0 hz) (hmul h1 hy)) (hmul h2 hx))⟩

/-- Integrating a zero derivative from the identity gives the identity (rule R179). -/
theorem integrate_identity {d : Quat Scalar} (hd : zeroQuat d) {dt : Scalar} (hdt : b32Finite dt = true) :
    integrate num identityQuat d dt = identityQuat := by
  obtain ⟨h0, h1, h2, h3⟩ := hd
  simp only [integrate, identityQuat, num_add, num_mul, b32One_add_zero (b32IsZero_mul_left h0 hdt),
    b32Zero_add_zero (b32IsZero_mul_left h1 hdt), b32Zero_add_zero (b32IsZero_mul_left h2 hdt),
    b32Zero_add_zero (b32IsZero_mul_left h3 hdt)]

theorem normalizeQuat_identity : normalizeQuat num identityQuat = identityQuat := by decide +kernel

theorem normalizeVec_gravity :
    normalizeVec num ⟨b32Zero, b32Zero, b32Gravity⟩ = some ⟨b32Zero, b32Zero, b32One⟩ := by decide +kernel

/-- The state holds the sample of rule R190 and the identity quaternion, and UPDATE's operands have been written. -/
structure State.atRest (s : State) : Prop where
  written : s.writtenAll (operandsOf .update)
  quat : s.quat = identityQuat
  gyro : zeroVec s.gyro
  dt : b32Finite (s.scalar .dt) = true
  accel : s.accel = ⟨b32Zero, b32Zero, b32Gravity⟩
  mag : s.mag = ⟨b32Zero, b32Zero, b32Zero⟩

/-- The identity quaternion, AN up, MN kept, DEGEN set. -/
def restResult : UpdateResult Scalar := ⟨identityQuat, some ⟨b32Zero, b32Zero, b32One⟩, none, true⟩

/-- What one UPDATE computes at rest (rule R190). -/
theorem State.atRest.updateResult {s : State} (h : s.atRest) :
    updateResult num s.accel s.gyro s.mag (s.scalar .dt) s.quat = restResult := by
  have hmag : zeroVec s.mag := by
    rw [h.mag]
    exact ⟨rfl, rfl, rfl⟩
  obtain ⟨hmn, hdegen⟩ := updateResult_of_degenerate s.accel s.gyro s.mag (s.scalar .dt) s.quat (.inr hmag.magnitude)
  have hderiv := quatDerivative_of_zeroVec (q := identityQuat) ⟨rfl, rfl, rfl, rfl⟩ h.gyro.gyroRates
  have hquat : (Machine.updateResult num s.accel s.gyro s.mag (s.scalar .dt) s.quat).quat = identityQuat := by
    rw [updateResult_quat, h.quat, integrate_identity hderiv h.dt, normalizeQuat_identity]
  have haccel : (Machine.updateResult num s.accel s.gyro s.mag (s.scalar .dt) s.quat).accel
      = some ⟨b32Zero, b32Zero, b32One⟩ := by
    rw [updateResult_accel, h.accel, normalizeVec_gravity]
  exact UpdateResult.mk.injEq .. ▸ ⟨hquat, haccel, hmn, hdegen⟩

/-- UPDATE keeps its operands, values and marks. -/
theorem putUpdate_rest {s : State} (h : s.atRest) : (s.putUpdate restResult).atRest := by
  have hkeep : ∀ r ∈ [SReg.ax, .ay, .az, .gx, .gy, .gz, .mx, .my, .mz, .dt],
      (s.putUpdate restResult).scalar r = s.scalar r :=
    fun r hr => putUpdate_scalar_of_notMem s _ (by revert r; decide)
  have haccel : (s.putUpdate restResult).accel = s.accel := by simp [State.accel, hkeep]
  have hgyro : (s.putUpdate restResult).gyro = s.gyro := by simp [State.gyro, hkeep]
  have hmag : (s.putUpdate restResult).mag = s.mag := by simp [State.mag, hkeep]
  refine ⟨fun r hr => ?_, putUpdate_quat s _, hgyro ▸ h.gyro, hkeep .dt (by decide) ▸ h.dt,
    haccel.trans h.accel, hmag.trans h.mag⟩
  rw [putUpdate_marks s _ r, h.written r hr, Bool.or_true]

theorem exec_update_atRest {s : State} (h : s.atRest) : exec .update s = .next (s.putUpdate restResult) := by
  rw [exec_update_next h.written, h.updateResult]

/-- Ticks from rest end at rest, with what the last of them wrote (rule R190). -/
theorem updateTicks_atRest (n : Nat) {s : State} (h : s.atRest) :
    ∃ t, updateTicks (n + 1) s = .next t ∧ t.atRest ∧ t.normAccel = ⟨b32Zero, b32Zero, b32One⟩ ∧
      t.normMag = s.normMag ∧ t.degenFlag = true ∧
      ∀ r ∈ [Reg.scalar .mn0, .scalar .mn1, .scalar .mn2], t.isWritten r = s.isWritten r := by
  have hmarks := putUpdate_isWritten_mn s (u := restResult) rfl
  induction n generalizing s with
  | zero =>
    refine ⟨s.putUpdate restResult, ?_, putUpdate_rest h, putUpdate_normAccel _ _, putUpdate_normMag _ _,
      putUpdate_degenFlag _ _, hmarks⟩
    rw [updateTicks, exec_update_atRest h]
    rfl
  | succ n ih =>
    obtain ⟨t, hticks, ht, haccel, hmag, hdegen, hlast⟩ :=
      ih (putUpdate_rest h) (putUpdate_isWritten_mn _ rfl)
    refine ⟨t, ?_, ht, haccel, hmag.trans (putUpdate_normMag _ _), hdegen, fun r hr => ?_⟩
    · rw [updateTicks, exec_update_atRest h, andThen_next, hticks]
    · rw [hlast r hr, hmarks r hr]

/-- Settles O50, by induction on the ticks. -/
theorem zeroRateKeepsIdentity : Obligations.ZeroRateKeepsIdentity := by
  unfold Obligations.ZeroRateKeepsIdentity
  intro s n hs hn hquat hx hy hz hdt haccel hmag
  obtain ⟨k, rfl⟩ := Nat.exists_eq_add_of_le' hn
  obtain ⟨t, hticks, ht, hrest⟩ := updateTicks_atRest k ⟨hs, hquat, ⟨hx, hy, hz⟩, hdt, haccel, hmag⟩
  exact ⟨t, hticks, ht.quat, hrest⟩

/-! ### EULER -/

@[simp] theorem setAngles_quat (s : State) (a : Angles Scalar) : (s.setAngles a).quat = s.quat :=
  setScalars_quat_of_notMem s _ (by simp)

theorem setAngles_scalar (s : State) (a : Angles Scalar) (r : SReg) : (s.setAngles a).scalar r =
    if r = .yaw then a.yaw else if r = .pitch then a.pitch else if r = .roll then a.roll else s.scalar r := by
  simp only [State.setAngles, setScalars_cons, setScalars_nil, scalar_setScalar]

/-- Writing a value that a register holds as written changes nothing. -/
theorem setScalar_of_holds {s : State} {r : SReg} (hw : s.isWritten (.scalar r) = true) :
    s.setScalar r (s.scalar r) = s := by
  have hvalue : s.scalars.set r.number.val (s.scalar r) r.number.isLt = s.scalars := Vector.set_getElem_self _
  have hmark : s.written.set (Reg.scalar r).place.val true (Reg.scalar r).place.isLt = s.written := by
    rw [← hw]
    exact Vector.set_getElem_self _
  simp only [State.setScalar, State.markWritten, hvalue, hmark]

theorem setScalars_of_holds {s : State} {ws : List (SReg × Scalar)}
    (h : ∀ w ∈ ws, s.scalar w.1 = w.2 ∧ s.isWritten (.scalar w.1) = true) : s.setScalars ws = s := by
  induction ws with
  | nil => rfl
  | cons w ws ih =>
    obtain ⟨hv, hw⟩ := h w List.mem_cons_self
    rw [setScalars_cons, ← hv, setScalar_of_holds hw]
    exact ih fun w' hw' => h w' (List.mem_cons_of_mem w hw')

/-- Writing the same angles again changes nothing (rule R182). -/
theorem setAngles_idem (s : State) (a : Angles Scalar) : (s.setAngles a).setAngles a = s.setAngles a := by
  refine setScalars_of_holds fun w hw => ?_
  rw [setAngles_scalar, setAngles_isWritten]
  simp only [List.mem_cons, List.not_mem_nil, or_false] at hw
  rcases hw with rfl | rfl | rfl <;> exact ⟨rfl, rfl⟩

/-- Settles O52: the writes are the angles of the quaternion, which they leave as it is. -/
theorem eulerFollowsFormulas : Obligations.EulerFollowsFormulas := by
  unfold Obligations.EulerFollowsFormulas
  refine ⟨by decide, fun s => ?_⟩
  intro S r2d ry rx p yy yx
  refine ⟨s.setAngles (eulerAngles num s.quat), rfl, ?_, ?_, ?_, fun r hr => ?_, setScalars_marks s _,
    setScalars_frame s _, ?_⟩
  · exact setAngles_scalar _ _ _
  · exact setAngles_scalar _ _ _
  · exact setAngles_scalar _ _ _
  · exact scalar_setScalars_of_notMem s _ r hr
  · have hagain : exec .euler (s.setAngles (eulerAngles num s.quat)) =
        .next ((s.setAngles (eulerAngles num s.quat)).setAngles
          (eulerAngles num (s.setAngles (eulerAngles num s.quat)).quat)) := rfl
    rw [hagain, setAngles_quat, setAngles_idem]

end Sys2Proof.Machine
end

section
/-! The frame buffer: moves that do not exist, the length of a frame, what stores a frame or a byte (rules R50 to R53,
R57, R79, R80, R132 and R226). -/

namespace Sys2Proof.Machine

/-! ### Host moves on the buffer, and moves that do not exist -/

/-- WRB writes the byte of its index (rule R226). -/
theorem step_wrb {s base : State} {i : Nat} {b : Byte} (hi : i < Config.bufCap) (h : s.nextMove (.wrb i b) base) :
    step s = .next (writeByte i b base) := step_allowed h ((indexExists_iff i).mpr hi)

/-- Settles O7: reading after writing one byte of the memory. -/
theorem hostWritesOneByte : Obligations.HostWritesOneByte := by
  unfold Obligations.HostWritesOneByte
  intro s base i b hi h
  have hstep := step_wrb hi h
  obtain ⟨rest, -, rfl⟩ := h
  exact ⟨_, hstep, fun j => memRead_memWrite s.buf i j b, rfl⟩

/-- A move outside the column "allowed when" is refused by its name. -/
theorem step_notAllowed {s base : State} {m : HostMove} (h : s.nextMove m base) (ha : ¬m.allowed = true) :
    step s = .refused (.noSuchMove m) := (step_move h).trans (if_neg ha)

theorem allowed_wrc_iff {n v : Nat} : (HostMove.wrc n v).allowed = true ↔
    (n = 2 ∧ v ≤ Config.bufCap) ∨ (n = 3 ∧ v < 2 ^ 32) ∨ (n = 4 ∧ v < 2 ^ 16) := wrcAllowed_iff

/-- Settles O9: the column "allowed when", row by row. -/
theorem movesOutsideTheTableDoNotExist : Obligations.MovesOutsideTheTableDoNotExist := by
  unfold Obligations.MovesOutsideTheTableDoNotExist
  refine fun s base m hm h => step_notAllowed h ?_
  rcases hm with ⟨n, v, rfl, hn⟩ | ⟨n, rfl, hn⟩ | ⟨n, v, rfl, hn⟩ | ⟨v, rfl, hv⟩ | ⟨v, rfl, hv⟩ | ⟨v, rfl, hv⟩ |
    ⟨n, rfl, hn⟩ | ⟨i, b, rfl, hi⟩ | ⟨i, rfl, hi⟩
  · exact mt of_decide_eq_true (not_lt.mpr hn)
  · exact mt of_decide_eq_true (not_lt.mpr hn)
  · exact mt allowed_wrc_iff.mp (by omega)
  · exact mt allowed_wrc_iff.mp (by omega)
  · exact mt allowed_wrc_iff.mp (by omega)
  · exact mt allowed_wrc_iff.mp (by omega)
  · exact mt of_decide_eq_true (not_lt.mpr hn)
  · exact mt (indexExists_iff i).mp (not_lt.mpr hi)
  · exact mt (indexExists_iff i).mp (not_lt.mpr hi)

/-! ### The length of a frame -/

/-- A number below `10 ^ d` adds at most `d` digits. -/
theorem decDigits_length_le (fuel : Nat) {n d : Nat} (acc : Bytes) (hd : 0 < d) (hn : n < 10 ^ d) :
    (decDigits fuel n acc).length ≤ acc.length + d := by
  induction fuel generalizing n d acc with
  | zero => exact Nat.le_add_right _ _
  | succ fuel ih =>
    rw [decDigits]
    split
    · rw [List.length_cons]
      omega
    · obtain ⟨d, rfl⟩ : ∃ k, d = k + 1 := ⟨d - 1, by omega⟩
      rw [pow_succ] at hn
      have hd' : 0 < d := Nat.pos_of_ne_zero (by rintro rfl; omega)
      have h := ih (n := n / 10) (digitChar (n % 10) :: acc) hd' (by omega)
      rw [List.length_cons] at h
      omega

theorem decU_length_le {n d : Nat} (hd : 0 < d) (hn : n < 10 ^ d) : (decU n).length ≤ d :=
  (decDigits_length_le _ [] hd hn).trans_eq (Nat.zero_add d)

/-- A timestamp has at most `TSDIG` digits (rule R52). -/
theorem decU_timestamp_length_le (t : U32) : (decU t.toNat).length ≤ Config.timestampDigits :=
  decU_length_le (by decide) (t.isLt.trans (by decide))

theorem padDigits_length (n p : Nat) : (padDigits n p).length = max (p + 1) (decU n).length := by
  rw [padDigits, List.length_append, List.length_replicate]
  omega

/-- The point is one character more than the digits. -/
theorem pointText_length_le (n p : Nat) : (pointText n p).length ≤ (padDigits n p).length + 1 := by
  unfold pointText
  dsimp only
  split
  · exact Nat.le_succ _
  · rw [List.length_append, List.length_cons, List.length_take, List.length_drop]
    omega

theorem roundHalfEven_le (x : Nat) {y : Nat} (hy : 0 < y) : roundHalfEven x y ≤ x / y + 1 := by
  obtain ⟨up, h⟩ := roundHalfEven_choice x hy
  rw [h]
  exact Nat.add_le_add_left (Bool.toNat_le _) _

/-- A value of binary32 is below 2^128, so its numerator is below that many denominators. -/
theorem b32Val_natAbs_num_lt (v : Scalar) : (b32Val v).num.natAbs < 2 ^ 128 * (b32Val v).den := by
  have h : |b32Val v| < 2 ^ 128 := by exact_mod_cast abs_b32Val_lt v
  rw [Rat.abs_def, Rat.divInt_eq_div, div_lt_iff₀ (by exact_mod_cast (b32Val v).den_pos)] at h
  exact_mod_cast h

/-- A printed magnitude has at most `IDIG` digits before its `p` last ones (rule R52). -/
theorem fixedUnits_lt (v : Scalar) (p : Nat) : fixedUnits num v p < 10 ^ (Config.integerDigits + p) := by
  have hden : 0 < (b32Val v).den := (b32Val v).den_pos
  have hquot : (b32Val v).num.natAbs * 10 ^ p / (b32Val v).den < 2 ^ 128 * 10 ^ p := by
    rw [Nat.div_lt_iff_lt_mul hden, Nat.mul_right_comm]
    exact Nat.mul_lt_mul_of_pos_right (b32Val_natAbs_num_lt v) (Nat.pow_pos (by decide))
  calc fixedUnits num v p ≤ (b32Val v).num.natAbs * 10 ^ p / (b32Val v).den + 1 := roundHalfEven_le _ hden
    _ ≤ 2 ^ 128 * 10 ^ p := hquot
    _ < 10 ^ Config.integerDigits * 10 ^ p := Nat.mul_lt_mul_of_pos_right (by decide) (Nat.pow_pos (by decide))
    _ = 10 ^ (Config.integerDigits + p) := (pow_add _ _ _).symm

/-- A field has a sign, `IDIG` digits, a point and `p` digits at most (rule R52). -/
theorem fmtFixed_length_le (v : Scalar) (p : Nat) :
    (fmtFixed num v p).length ≤ 1 + Config.integerDigits + 1 + p := by
  have hsign : (if num.neg v then [chMinus] else []).length ≤ 1 := by split <;> simp
  have hpoint := pointText_length_le (fixedUnits num v p) p
  have hdigits := decU_length_le (Nat.add_pos_left (by decide) p) (fixedUnits_lt v p)
  have hone : 1 ≤ Config.integerDigits := by decide
  rw [padDigits_length] at hpoint
  rw [fmtFixed, List.length_append]
  omega

theorem encodeFields_length_le (fields : List (Scalar × Nat)) : (encodeFields num fields).length ≤
    (fields.map fun f => 1 + 1 + Config.integerDigits + 1 + f.2).sum := by
  induction fields with
  | nil => exact Nat.le_refl _
  | cons f fields ih =>
    have hfield := fmtFixed_length_le f.1 f.2
    rw [encodeFields, List.length_append, List.length_cons, List.map_cons, List.sum_cons]
    omega

/-- A frame is no longer than the bound of its kind (rule R52). -/
theorem encodeFrame_length_le (s : State) (e : FrameFormat) :
    (encodeFrame num e s.tms (s.fieldValues e)).length ≤ Config.maxFrameOf e := by
  have htime := decU_timestamp_length_le s.tms
  have hfields : (encodeFields num (s.fieldValues e)).length ≤
      (e.fields.map fun f => 1 + 1 + Config.integerDigits + 1 + f.2).sum := by
    simpa only [State.fieldValues, List.map_map, Function.comp_def] using encodeFields_length_le (s.fieldValues e)
  simp only [encodeFrame, wrapFrame, encodePayload, digestField, Config.maxFrameOf, List.length_append,
    List.length_cons, hexW_length]
  omega

theorem maxFrameOf_le_maxFrame : ∀ e ∈ Config.fmtTable, Config.maxFrameOf e ≤ Config.maxFrame := by decide

/-! ### ENC -/

/-- What storing a frame that has room leaves (rules R50 and R132). -/
theorem holdsFrameOver_stored (s : State) {frame : Bytes} (h : frame.length ≤ Config.bufCap) :
    { s with buf := memWriteSeq s.buf 0 frame, len := BitVec.ofNat 16 frame.length }.holdsFrameOver s frame := by
  have hcap := bufCap_le
  refine ⟨?_, fun i hi => ?_, fun i hi => ?_, rfl⟩
  · exact (BitVec.toNat_ofNat _ _).trans (Nat.mod_eq_of_lt (by omega))
  · rw [memRead_memWriteSeq, if_pos ⟨Nat.zero_le i, by omega⟩]
    exact List.getElem?_eq_getElem hi
  · rw [memRead_memWriteSeq, if_neg (by omega)]

/-- An ENC of a kind of the table, with its operands written and finite, stores its frame (rule R132). -/
theorem encodeKind_holdsFrameOver {s : State} {e : FrameFormat} (he : e ∈ Config.fmtTable) (h : s.readySources e) :
    (encodeFrame num e s.tms (s.fieldValues e)).length ≤ Config.maxFrame ∧
      ∃ t, s.encodeKind e = .next t ∧ t.holdsFrameOver s (encodeFrame num e s.tms (s.fieldValues e)) := by
  have hlen := (encodeFrame_length_le s e).trans (maxFrameOf_le_maxFrame e he)
  have hcap := hlen.trans maxFrame_le_bufCap
  exact ⟨hlen, _, encodeKind_eq_next.mpr ⟨h, putFrame_eq_next.mpr ⟨hcap, rfl⟩⟩, holdsFrameOver_stored s hcap⟩

/-- The digest field of algorithm XOR8 (rules R77 and R103). -/
theorem digestField_xor8 (payload : Bytes) : digestField .xor8 payload = hexW (xor8 payload).toNat 2 := by
  have hlt : (xor8 payload).toNat < 2 ^ 16 := (xor8 payload).isLt.trans (by decide)
  simp only [digestField, digest, Alg.width, BitVec.toNat_setWidth, Nat.mod_eq_of_lt hlt]

/-- Settles O34: the frame written out is the encoding of the table's first entry. -/
theorem encLevelOneStoresTheFrame : Obligations.EncLevelOneStoresTheFrame := by
  unfold Obligations.EncLevelOneStoresTheFrame
  refine ⟨by decide, fun s h => ?_⟩
  intro field payload frame
  have hpayload : payload = encodePayload num Config.formatL1 s.tms (s.fieldValues Config.formatL1) := by
    simp [payload, field, encodePayload, encodeFields, State.fieldValues, Config.formatL1]
  have hframe : frame = encodeFrame num Config.formatL1 s.tms (s.fieldValues Config.formatL1) := by
    rw [encodeFrame, wrapFrame, ← hpayload]
    exact congrArg (chDollar :: payload ++ chStar :: ·) (digestField_xor8 payload).symm
  rw [hframe]
  exact encodeKind_holdsFrameOver (by decide) h

/-- Settles O35: the frame written out is the encoding of the table's second entry. -/
theorem encLevelTwoStoresTheFrame : Obligations.EncLevelTwoStoresTheFrame := by
  unfold Obligations.EncLevelTwoStoresTheFrame
  refine ⟨by decide, fun s h => ?_⟩
  intro field payload frame
  have hpayload : payload = encodePayload num Config.formatL2 s.tms (s.fieldValues Config.formatL2) := by
    simp [payload, field, encodePayload, encodeFields, State.fieldValues, Config.formatL2]
  have hframe : frame = encodeFrame num Config.formatL2 s.tms (s.fieldValues Config.formatL2) := by
    rw [encodeFrame, wrapFrame, ← hpayload]
    rfl
  rw [hframe]
  exact encodeKind_holdsFrameOver (by decide) h

/-! ### What changes a byte of the buffer -/

theorem putParse_buf (s : State) (result : Except FrameError (Parsed Scalar)) : (s.putParse result).buf = s.buf := by
  cases result with
  | error e => rfl
  | ok p => exact setScalars_buf _ _

theorem putUpdate_buf (s : State) (u : UpdateResult Scalar) : (s.putUpdate u).buf = s.buf := by
  rw [← congrArg State.buf (putUpdate_frame s u)]

/-- The bytes that storing a frame changes lie below the new LEN (rule R50). -/
theorem State.holdsFrameOver.lt_len_of_byte {t s : State} {frame : Bytes} (h : t.holdsFrameOver s frame) {k : Nat}
    (hk : memRead t.buf k ≠ memRead s.buf k) : k < t.len.toNat := by
  obtain ⟨hlen, -, hkeep, -⟩ := h
  exact hlen ▸ not_le.mp (mt (hkeep k) hk)

/-- A byte is an ENC's where its frame reaches it, and no other command's (rule R50). -/
theorem CommandEffect.byte {s t : State} {i : Instr} (h : CommandEffect s i t) {k : Nat}
    (hk : memRead t.buf k ≠ memRead s.buf k) : (i = .encL1 ∨ i = .encL2) ∧ k < t.len.toNat := by
  cases h with
  | encL1 frame fits =>
    exact ⟨.inl rfl, (holdsFrameOver_stored s fits).lt_len_of_byte hk⟩
  | encL2 frame fits =>
    exact ⟨.inr rfl, (holdsFrameOver_stored s fits).lt_len_of_byte hk⟩
  | dec bytes => exact absurd (congrArg (memRead · k) (putParse_buf s _)) hk
  | update u => exact absurd (congrArg (memRead · k) (putUpdate_buf s u)) hk
  | csinit | csput | xor8 | crc16 | verify | euler => exact absurd rfl hk

theorem writeScalar_buf (n : Nat) (v : Scalar) (s : State) : (writeScalar n v s).buf = s.buf := by
  unfold writeScalar
  split <;> rfl

theorem setControl_buf (s : State) (r : CReg) (v : Nat) : (s.setControl r v).buf = s.buf := by
  cases r <;> rfl

theorem writeControl_buf (n v : Nat) (s : State) : (writeControl n v s).buf = s.buf := by
  unfold writeControl
  split
  · exact setControl_buf s _ v
  · rfl

/-- A byte is changed by a WRB of its index, or by the command that a move gives (rules R50 and R226). -/
theorem hostMove_byte {m : HostMove} {s t : State} {k : Nat} (h : hostMove m s = .next t)
    (hk : memRead t.buf k ≠ memRead s.buf k) :
    (∃ b, m = .wrb k b) ∨ ∃ w i, m = .cmd w ∧ decode w = .ok i ∧ CommandEffect s i t := by
  cases m with
  | wrb i b =>
    injection h with h
    subst h
    rw [writeByte_buf, memRead_memWrite, ne_eq, ite_eq_right_iff, Classical.not_imp] at hk
    exact .inl ⟨b, hk.1 ▸ rfl⟩
  | cmd w =>
    rcases giveCommand_cases w s with ⟨i, hw, hrun⟩ | ⟨e, -, hill⟩
    · exact .inr ⟨w, i, rfl, hw, exec_effect (hrun.symm.trans h)⟩
    · injection hill.symm.trans h with h
      exact absurd (h ▸ rfl) hk
  | wrs n v =>
    injection h with h
    exact absurd (congrArg (memRead · k) (h ▸ writeScalar_buf n v s)) hk
  | wrc n v =>
    injection h with h
    exact absurd (congrArg (memRead · k) (h ▸ writeControl_buf n v s)) hk
  | rds | rdc | rdb =>
    injection h with h
    exact absurd (h ▸ rfl) hk

/-- Settles O60, by the event the step takes. -/
theorem bufferBytesHaveTheirWriters : Obligations.BufferBytesHaveTheirWriters := by
  unfold Obligations.BufferBytesHaveTheirWriters
  intro s t k hstep hk
  rcases step_eq_next.mp hstep with ⟨-, rfl⟩ | ⟨rest, hp, -⟩ | ⟨m, base, hnext, -, hmove⟩
  · exact absurd rfl hk
  · exact .inl ⟨rest, hp⟩
  · have ⟨rest, hp, hbase⟩ := hnext
    have hbuf : base.buf = s.buf := by rw [hbase]
    rcases hostMove_byte hmove (hbuf ▸ hk) with ⟨b, rfl⟩ | ⟨w, i, rfl, hw, heffect⟩
    · exact .inr (.inl ⟨b, base, hnext⟩)
    · have hgives : s.gives i := ⟨w, rest, hp, hw⟩
      obtain ⟨rfl | rfl, hlt⟩ := heffect.byte (hbuf ▸ hk)
      · exact .inr (.inr ⟨.inl hgives, hlt⟩)
      · exact .inr (.inr ⟨.inr hgives, hlt⟩)

end Sys2Proof.Machine
end

section
/-! The command word: decoding and encoding are inverse, the rows of the opcode table accept exactly the encodings of
their commands, and the words that are no encoding set ILL (rules R70, R71, R72 and R86). -/

namespace Sys2Proof.Machine

/-! ### The two fields of a word -/

/-- A word is made of its two fields (rule R70). -/
theorem cw_cwOp_cwArg (w : U16) : cw (cwOp w) (cwArg w) = w := BitVec.extractLsb'_append_extractLsb'

theorem cw_inj {op arg op' arg' : Byte} (h : cw op arg = cw op' arg') : op = op' ∧ arg = arg' :=
  ⟨by simpa only [cwOp_cw] using congrArg cwOp h, by simpa only [cwArg_cw] using congrArg cwArg h⟩

/-- A mask acts on each field by itself. -/
theorem cw_and_cw (op arg op' arg' : Byte) : cw op arg &&& cw op' arg' = cw (op &&& op') (arg &&& arg') :=
  BitVec.and_append

/-! ### Decoding the argument -/

theorem decodeNoArg_ok {arg : Byte} {i j : Instr} (h : decodeNoArg arg i = .ok j) : arg = 0 ∧ i = j := by
  unfold decodeNoArg at h
  split at h
  next harg => exact ⟨harg, Except.ok.inj h⟩
  next => cases h

theorem decodeVerify_ok {arg : Byte} {j : Instr} (h : decodeVerify arg = .ok j) :
    ∃ alg : Alg, arg = alg.code ∧ .verify alg = j := by
  unfold decodeVerify at h
  split_ifs at h with h0 h1
  · exact ⟨.xor8, h0, Except.ok.inj h⟩
  · exact ⟨.crc16, h1, Except.ok.inj h⟩

theorem decodeEnc_ok {arg : Byte} {j : Instr} (h : decodeEnc arg = .ok j) :
    (arg = 1 ∧ .encL1 = j) ∨ (arg = 2 ∧ .encL2 = j) := by
  unfold decodeEnc at h
  split_ifs at h with h1 h2
  · exact .inl ⟨h1, Except.ok.inj h⟩
  · exact .inr ⟨h2, Except.ok.inj h⟩

theorem decodeNoArg_error_iff {arg : Byte} {i : Instr} : (∃ e, decodeNoArg arg i = .error e) ↔ arg ≠ 0 := by
  unfold decodeNoArg
  split
  next h0 => exact iff_of_false (fun ⟨_, h⟩ => nomatch h) (not_not_intro h0)
  next h0 => exact iff_of_true ⟨_, rfl⟩ h0

theorem decodeVerify_error_iff {arg : Byte} : (∃ e, decodeVerify arg = .error e) ↔ 1 < arg.toNat := by
  unfold decodeVerify
  split_ifs with h0 h1
  · exact iff_of_false (fun ⟨_, h⟩ => nomatch h) (h0 ▸ by decide)
  · exact iff_of_false (fun ⟨_, h⟩ => nomatch h) (h1 ▸ by decide)
  · exact iff_of_true ⟨_, rfl⟩ (by bv_omega)

theorem decodeEnc_error_iff {arg : Byte} : (∃ e, decodeEnc arg = .error e) ↔ arg ≠ 1 ∧ arg ≠ 2 := by
  unfold decodeEnc
  split_ifs with h1 h2
  · exact iff_of_false (fun ⟨_, h⟩ => nomatch h) fun h => h.1 h1
  · exact iff_of_false (fun ⟨_, h⟩ => nomatch h) fun h => h.2 h2
  · exact iff_of_true ⟨_, rfl⟩ ⟨h1, h2⟩

/-! ### Decoding by the operation code -/

/-- The nine operation codes (rule R71). -/
def knownOps : List Byte := [0x01, 0x02, 0x03, 0x04, 0x05, 0x10, 0x11, 0x20, 0x21]

/-- The operation codes whose argument must be 0 (rules R70 and R71). -/
def noArgOps : List Byte := [0x01, 0x03, 0x04, 0x11, 0x20, 0x21]

/-- An operation code takes no argument, is that of CSPUT, VERIFY or ENC, or is none (rule R71). -/
theorem op_cases (op : Byte) : op ∈ noArgOps ∨ op = 0x02 ∨ op = 0x05 ∨ op = 0x10 ∨ op ∉ knownOps := by
  simp only [noArgOps, knownOps, List.mem_cons, List.not_mem_nil, or_false]
  tauto

theorem noArgOps_distinct : ∀ op ∈ noArgOps, op ∈ knownOps ∧ op ≠ 0x05 ∧ op ≠ 0x10 := by decide

/-- A code without an argument belongs to one command, whose word has the argument 0. -/
theorem decodeFields_noArg {op : Byte} (hop : op ∈ noArgOps) :
    ∃ i, encode i = cw op 0 ∧ ∀ arg, decodeFields op arg = decodeNoArg arg i := by
  simp only [noArgOps, List.mem_cons, List.not_mem_nil, or_false] at hop
  rcases hop with rfl | rfl | rfl | rfl | rfl | rfl
  · exact ⟨.csinit, rfl, fun _ => rfl⟩
  · exact ⟨.xor8, rfl, fun _ => rfl⟩
  · exact ⟨.crc16, rfl, fun _ => rfl⟩
  · exact ⟨.dec, rfl, fun _ => rfl⟩
  · exact ⟨.update, rfl, fun _ => rfl⟩
  · exact ⟨.euler, rfl, fun _ => rfl⟩

theorem decodeFields_csput (arg : Byte) : decodeFields 0x02 arg = .ok (.csput arg) := rfl

theorem decodeFields_verify (arg : Byte) : decodeFields 0x05 arg = decodeVerify arg := rfl

theorem decodeFields_enc (arg : Byte) : decodeFields 0x10 arg = decodeEnc arg := rfl

theorem decodeFields_unknown {op : Byte} (hop : op ∉ knownOps) (arg : Byte) :
    decodeFields op arg = .error (.unknownOp op) := by
  simp only [knownOps, List.mem_cons, List.not_mem_nil, or_false, not_or] at hop
  simp only [decodeFields, hop, if_false]

/-! ### Decoding and encoding are inverse -/

/-- The fields of a word that decodes are those of the encoding: no bit of the word is dropped (rules R70 to R72). -/
theorem cw_eq_encode {op arg : Byte} {i : Instr} (h : decodeFields op arg = .ok i) : cw op arg = encode i := by
  rcases op_cases op with hop | rfl | rfl | rfl | hop
  · obtain ⟨j, hj, hdecode⟩ := decodeFields_noArg hop
    obtain ⟨rfl, rfl⟩ := decodeNoArg_ok ((hdecode arg).symm.trans h)
    exact hj.symm
  · obtain rfl := Except.ok.inj ((decodeFields_csput arg).symm.trans h)
    rfl
  · obtain ⟨alg, rfl, rfl⟩ := decodeVerify_ok ((decodeFields_verify arg).symm.trans h)
    rfl
  · obtain ⟨rfl, rfl⟩ | ⟨rfl, rfl⟩ := decodeEnc_ok ((decodeFields_enc arg).symm.trans h)
    · rfl
    · rfl
  · cases (decodeFields_unknown hop arg).symm.trans h

theorem eq_encode {w : U16} {i : Instr} (h : decode w = .ok i) : w = encode i :=
  (cw_cwOp_cwArg w).symm.trans (cw_eq_encode h)

/-- Settles O2: the fields of a word determine it, and the word of a command decodes to it. -/
theorem decodeExactlyInvertsEncode : Obligations.DecodeExactlyInvertsEncode := by
  unfold Obligations.DecodeExactlyInvertsEncode
  exact fun w i => ⟨eq_encode, fun h => h ▸ decode_encode i⟩

/-! ### The rows of the opcode table -/

theorem row_mem_opcodeTable (i : Instr) : i.row ∈ opcodeTable := by
  cases i <;> simp [opcodeTable, Instr.row]

/-- The row of a command accepts its word (rule R71). -/
theorem row_accepts_encode (i : Instr) : i.row.accepts (encode i) = true := by
  cases i with
  | csinit => exact Laws.RowAccepts.csinit
  | csput byte => exact Laws.RowAccepts.csput byte
  | xor8 => exact Laws.RowAccepts.xor8
  | crc16 => exact Laws.RowAccepts.crc16
  | verify alg => exact Laws.RowAccepts.verify alg
  | encL1 => exact Laws.RowAccepts.encL1
  | encL2 => exact Laws.RowAccepts.encL2
  | dec => exact Laws.RowAccepts.dec
  | update => exact Laws.RowAccepts.update
  | euler => exact Laws.RowAccepts.euler

theorem accepts_iff {r : OpcodeRow} {w : U16} : r.accepts w = true ↔ (w &&& r.mask) = r.matchBits := beq_iff_eq

/-- The full mask leaves one word to a row. -/
theorem eq_of_and_fullMask {w m : U16} (h : w &&& 0xFFFF = m) : w = m := by
  rwa [show (0xFFFF : U16) = BitVec.allOnes 16 from rfl, BitVec.and_allOnes] at h

/-- A full mask on the operation code fixes it, and leaves the argument to the rest of the mask. -/
theorem fields_of_and_mask {w : U16} {op arg mask : Byte} (h : w &&& cw 0xFF mask = cw op arg) :
    w = cw op (cwArg w) ∧ cwArg w &&& mask = arg := by
  rw [← cw_cwOp_cwArg w, cw_and_cw, show (0xFF : Byte) = BitVec.allOnes 8 from rfl, BitVec.and_allOnes] at h
  obtain ⟨hop, harg⟩ := cw_inj h
  exact ⟨hop ▸ (cw_cwOp_cwArg w).symm, harg⟩

/-- The mask of VERIFY leaves the lowest bit of the argument free. -/
theorem eq_zero_or_one_of_and_mask : ∀ arg : Byte, arg &&& 0xFE = 0 → arg = 0 ∨ arg = 1 := by decide +kernel

/-- The bit that the mask of VERIFY leaves free is the algorithm's code (rule R73). -/
theorem exists_alg_of_and_mask {arg : Byte} (h : arg &&& 0xFE = 0) : ∃ alg : Alg, arg = alg.code := by
  rcases eq_zero_or_one_of_and_mask arg h with h0 | h1
  · exact ⟨.xor8, h0⟩
  · exact ⟨.crc16, h1⟩

/-- A word that a row accepts is the encoding of a command of that row. -/
theorem eq_encode_of_row {r : OpcodeRow} (hr : r ∈ opcodeTable) {w : U16} (h : (w &&& r.mask) = r.matchBits) :
    ∃ i, w = encode i ∧ i.row = r := by
  simp only [opcodeTable, List.mem_cons, List.not_mem_nil, or_false] at hr
  rcases hr with rfl | rfl | rfl | rfl | rfl | rfl | rfl | rfl | rfl | rfl
  · exact ⟨.csinit, eq_of_and_fullMask h, rfl⟩
  · have hw := (fields_of_and_mask (mask := 0x00) (op := 0x02) (arg := 0x00) h).1
    exact ⟨.csput (cwArg w), hw, rfl⟩
  · exact ⟨.xor8, eq_of_and_fullMask h, rfl⟩
  · exact ⟨.crc16, eq_of_and_fullMask h, rfl⟩
  · obtain ⟨hw, harg⟩ := fields_of_and_mask (mask := 0xFE) (op := 0x05) (arg := 0x00) h
    obtain ⟨alg, halg⟩ := exists_alg_of_and_mask harg
    exact ⟨.verify alg, hw.trans (congrArg (cw 0x05) halg), rfl⟩
  · exact ⟨.encL1, eq_of_and_fullMask h, rfl⟩
  · exact ⟨.encL2, eq_of_and_fullMask h, rfl⟩
  · exact ⟨.dec, eq_of_and_fullMask h, rfl⟩
  · exact ⟨.update, eq_of_and_fullMask h, rfl⟩
  · exact ⟨.euler, eq_of_and_fullMask h, rfl⟩

theorem encode_inj {i j : Instr} (h : encode i = encode j) : i = j :=
  Except.ok.inj ((decode_encode i).symm.trans ((congrArg decode h).trans (decode_encode j)))

/-- Settles O3: a row accepts the encodings of its commands and no other word. -/
theorem tableRowsAcceptExactlyCommands : Obligations.TableRowsAcceptExactlyCommands := by
  unfold Obligations.TableRowsAcceptExactlyCommands
  intro w
  have hown : ∀ i, decode w = .ok i → i.row ∈ opcodeTable ∧ (w &&& i.row.mask) = i.row.matchBits := fun i h =>
    ⟨row_mem_opcodeTable i, eq_encode h ▸ accepts_iff.mp (row_accepts_encode i)⟩
  refine ⟨⟨fun ⟨i, h⟩ => ⟨i.row, hown i h⟩, fun ⟨r, hr, h⟩ => ?_⟩, fun r₁ hr₁ r₂ hr₂ h₁ h₂ => ?_, hown⟩
  · obtain ⟨i, rfl, -⟩ := eq_encode_of_row hr h
    exact ⟨i, decode_encode i⟩
  · obtain ⟨i, hi, rfl⟩ := eq_encode_of_row hr₁ h₁
    obtain ⟨j, hj, rfl⟩ := eq_encode_of_row hr₂ h₂
    rw [encode_inj (hi.symm.trans hj)]

/-! ### Illegal words -/

/-- The illegal words by their fields (rule R86). -/
theorem decodeFields_error_iff (op arg : Byte) : (∃ e, decodeFields op arg = .error e) ↔
    (op ∉ knownOps ∨ (op ∈ noArgOps ∧ arg ≠ 0) ∨ (op = 0x05 ∧ 1 < arg.toNat) ∨
      (op = 0x10 ∧ arg ≠ 1 ∧ arg ≠ 2)) := by
  rcases op_cases op with hop | rfl | rfl | rfl | hop
  · obtain ⟨i, -, hdecode⟩ := decodeFields_noArg hop
    have hne : op ∈ knownOps ∧ op ≠ 0x05 ∧ op ≠ 0x10 := noArgOps_distinct op hop
    simp only [hdecode, decodeNoArg_error_iff, hop, hne, not_true, true_and, false_and, false_or, or_false]
  · rw [decodeFields_csput]
    simp [knownOps, noArgOps]
  · rw [decodeFields_verify, decodeVerify_error_iff]
    simp [knownOps, noArgOps]
  · rw [decodeFields_enc, decodeEnc_error_iff]
    simp [knownOps, noArgOps]
  · simp [decodeFields_unknown hop, hop]

/-- A step on an illegal word sets ILL (rule R86). -/
theorem step_illegal {s base : State} {w : U16} {e : IllegalWord} (h : s.nextMove (.cmd w) base)
    (hw : decode w = .error e) : step s = .next base.setIll := by
  rw [step_allowed h rfl, hostMove, giveCommand, hw]

/-- Settles O4: the words of each operation code, and the step. -/
theorem illegalWordSetsIllAlone : Obligations.IllegalWordSetsIllAlone := by
  unfold Obligations.IllegalWordSetsIllAlone
  refine ⟨fun w => decodeFields_error_iff _ _, fun s base w e h hw => ?_⟩
  rw [step_illegal h hw]
  obtain ⟨rest, -, rfl⟩ := h
  rfl

/-- Settles O1: eight of the words are encodings, and four are rejected. -/
theorem commandWordsDecodeAsTabled : Obligations.CommandWordsDecodeAsTabled := by
  unfold Obligations.CommandWordsDecodeAsTabled
  exact ⟨decode_encode .csinit, decode_encode (.csput 0x41), decode_encode (.verify .crc16), decode_encode .encL1,
    decode_encode .encL2, decode_encode .dec, decode_encode .update, decode_encode .euler, by decide, by decide,
    by decide, by decide⟩

end Sys2Proof.Machine
end

section
/-! The decimal digits of a number, and the text of a fixed-point number (rules R78, R133 and R136). -/

namespace Sys2Proof.Machine

/-! ### Digits and the number they denote -/

theorem digitChar_toNat {d : Nat} (h : d < 10) : (digitChar d).toNat = 0x30 + d := by
  rw [digitChar, BitVec.toNat_ofNat]
  omega

theorem isDigit_digitChar {d : Nat} (h : d < 10) : isDigit (digitChar d) = true := by
  simp only [isDigit, digitChar_toNat h, Bool.and_eq_true, decide_eq_true_eq]
  omega

/-- A digit behind the others is the unit digit. -/
theorem digitsValue_concat (p : Bytes) (b : Byte) :
    digitsValue (p ++ [b]) = 10 * digitsValue p + (b.toNat - 0x30) := by
  rw [digitsValue, List.foldl_append]
  rfl

theorem digitsValue_concat_digitChar (p : Bytes) {d : Nat} (h : d < 10) :
    digitsValue (p ++ [digitChar d]) = 10 * digitsValue p + d := by
  rw [digitsValue_concat, digitChar_toNat h, Nat.add_sub_cancel_left]

/-- Zeros in front do not count. -/
theorem digitsValue_replicate_append (k : Nat) (p : Bytes) :
    digitsValue (List.replicate k chZero ++ p) = digitsValue p := by
  induction k with
  | zero => rfl
  | succ k ih => exact ih

/-! ### `dec_u` -/

/-- With fuel for its digits, a positive number gives those of its decimal expansion. -/
theorem decDigits_eq_digits {k n : Nat} (acc : Bytes) (h0 : 0 < n) (hk : n < 10 ^ k) :
    decDigits k n acc = ((Nat.digits 10 n).map digitChar).reverse ++ acc := by
  induction k generalizing n acc with
  | zero => omega
  | succ k ih =>
    rw [decDigits, Nat.digits_def' (by decide) h0, List.map_cons, List.reverse_cons, List.append_assoc]
    split
    next hlt => rw [Nat.div_eq_of_lt hlt, Nat.mod_eq_of_lt hlt]; rfl
    next hge =>
      rw [pow_succ] at hk
      exact ih _ (by omega) (by omega)

/-- The fuel of `dec_u` is enough: a number of `b` bits is below `10 ^ b`. -/
theorem decU_eq_digits {n : Nat} (h0 : 0 < n) : decU n = ((Nat.digits 10 n).map digitChar).reverse := by
  have hfuel : n < 10 ^ (Nat.log2 n + 1) :=
    Nat.lt_log2_self.trans_le (Nat.pow_le_pow_left (by decide) _)
  exact (decDigits_eq_digits [] h0 hfuel).trans (List.append_nil _)

theorem decU_of_lt {n : Nat} (h : n < 10) : decU n = [digitChar n] := if_pos h

/-- From ten on, the last digit follows the text of the others. -/
theorem decU_of_ge {n : Nat} (h : 10 ≤ n) : decU n = decU (n / 10) ++ [digitChar (n % 10)] := by
  rw [decU_eq_digits (show 0 < n by omega), Nat.digits_def' (by decide) (by omega), List.map_cons, List.reverse_cons,
    decU_eq_digits (show 0 < n / 10 by omega)]

/-- Induction on the digits of a number. -/
theorem digits_induction {motive : Nat → Prop} (one : ∀ n, n < 10 → motive n)
    (more : ∀ n, 10 ≤ n → motive (n / 10) → motive n) (n : Nat) : motive n := by
  induction n using Nat.strong_induction_on with
  | _ n ih =>
    rcases Nat.lt_or_ge n 10 with hlt | hge
    · exact one n hlt
    · exact more n hge (ih (n / 10) (by omega))

theorem decU_all_isDigit (n : Nat) : (decU n).all isDigit = true := by
  induction n using digits_induction with
  | one n hn => simp [decU_of_lt hn, isDigit_digitChar hn]
  | more n hn ih => simp [decU_of_ge hn, ih, isDigit_digitChar (Nat.mod_lt n (show 0 < 10 by decide))]

theorem digitsValue_decU (n : Nat) : digitsValue (decU n) = n := by
  induction n using digits_induction with
  | one n hn =>
    rw [decU_of_lt hn]
    exact (digitsValue_concat_digitChar [] hn).trans (Nat.zero_add n)
  | more n hn ih =>
    rw [decU_of_ge hn, digitsValue_concat_digitChar _ (Nat.mod_lt n (by decide)), ih, Nat.div_add_mod]

theorem decU_ne_nil (n : Nat) : decU n ≠ [] := by
  rcases Nat.lt_or_ge n 10 with hlt | hge
  · rw [decU_of_lt hlt]
    exact List.cons_ne_nil _ _
  · rw [decU_of_ge hge]
    exact List.append_ne_nil_of_right_ne_nil _ (List.cons_ne_nil _ _)

/-- The first digit is 0 only in the text of 0 (rule R133). -/
theorem decU_head_zero {n : Nat} (h : (decU n).head? = some chZero) : n = 0 := by
  induction n using digits_induction with
  | one n hn =>
    rw [decU_of_lt hn] at h
    have hchar := congrArg BitVec.toNat (Option.some.inj h)
    rw [digitChar_toNat hn] at hchar
    exact Nat.add_left_cancel hchar
  | more n hn ih =>
    rw [decU_of_ge hn, List.head?_append_of_ne_nil _ (decU_ne_nil _)] at h
    exact absurd (ih h) (by omega)

/-! ### The text of `fmt_fixed` -/

theorem padDigits_all_isDigit (n p : Nat) : (padDigits n p).all isDigit = true := by
  simp [padDigits, decU_all_isDigit, show isDigit chZero = true from rfl]

theorem digitsValue_padDigits (n p : Nat) : digitsValue (padDigits n p) = n :=
  (digitsValue_replicate_append _ _).trans (digitsValue_decU n)

/-- The integer part: all but the last `p` digits. -/
def intDigits (n p : Nat) : Bytes := (padDigits n p).take ((padDigits n p).length - p)

/-- The fraction part: the last `p` digits. -/
def fracDigits (n p : Nat) : Bytes := (padDigits n p).drop ((padDigits n p).length - p)

theorem intDigits_append_fracDigits (n p : Nat) : intDigits n p ++ fracDigits n p = padDigits n p :=
  List.take_append_drop _ _

theorem pointText_eq (n p : Nat) :
    pointText n p = intDigits n p ++ (if p = 0 then [] else chPoint :: fracDigits n p) := by
  unfold pointText
  dsimp only
  split
  next h0 => rw [h0, intDigits, Nat.sub_zero, List.take_length, List.append_nil]
  next => rfl

theorem fracDigits_length (n p : Nat) : (fracDigits n p).length = p := by
  rw [fracDigits, List.length_drop, padDigits_length]
  omega

theorem intDigits_length (n p : Nat) : (intDigits n p).length = max 1 ((decU n).length - p) := by
  rw [intDigits, List.length_take, padDigits_length]
  omega

theorem intDigits_all_and_fracDigits_all (n p : Nat) :
    (intDigits n p).all isDigit = true ∧ (fracDigits n p).all isDigit = true := by
  rw [← Bool.and_eq_true, ← List.all_append, intDigits_append_fracDigits, padDigits_all_isDigit]

theorem isDigits_intDigits (n p : Nat) : isDigits (intDigits n p) = true := by
  have hlen := intDigits_length n p
  have hne : intDigits n p ≠ [] := List.ne_nil_of_length_pos (by omega)
  rw [isDigits, (intDigits_all_and_fracDigits_all n p).1, List.isEmpty_eq_false_iff.mpr hne]
  rfl

/-- The integer part has no needless zero: `p + 1` digits leave it one, and more are those of `dec_u` (rule R136). -/
theorem intDigits_head_zero {n p : Nat} (h : (intDigits n p).head? = some chZero) : intDigits n p = [chZero] := by
  have hlen := intDigits_length n p
  rcases Nat.lt_or_ge (p + 1) (decU n).length with hlong | hshort
  · have hpad : padDigits n p = decU n := by
      rw [padDigits, Nat.sub_eq_zero_of_le hlong.le]
      rfl
    rw [intDigits, List.head?_take, if_neg (by rw [hpad]; omega), hpad] at h
    rw [decU_head_zero h] at hlong
    exact absurd hlong (Nat.not_lt.mpr (Nat.le_add_left 1 p))
  · obtain ⟨b, hb⟩ := List.length_eq_one_iff.mp (show (intDigits n p).length = 1 by omega)
    rw [hb] at h ⊢
    rw [Option.some.inj h]

/-- Settles O30: the padded digits, cut before the last `p`. -/
theorem fixedPointTextShape : Obligations.FixedPointTextShape := by
  unfold Obligations.FixedPointTextShape
  intro T N v p
  obtain ⟨-, hfrac⟩ := intDigits_all_and_fracDigits_all (fixedUnits N v p) p
  refine ⟨intDigits (fixedUnits N v p) p, fracDigits (fixedUnits N v p) p, ?_, isDigits_intDigits _ _,
    intDigits_head_zero, hfrac, fracDigits_length _ _, ?_⟩
  · rw [fmtFixed, pointText_eq, signText, List.append_assoc]
  · rw [intDigits_append_fracDigits, digitsValue_padDigits]

end Sys2Proof.Machine
end

section
/-! The running exclusive-or (rules R100 and R112). -/

namespace Sys2Proof.Machine

/-- Absorbing bytes from any start is the exclusive-or of the start and their digest (rule R100). -/
theorem foldl_xorStep (x : Byte) (bytes : Bytes) : bytes.foldl xorStep x = x ^^^ xor8 bytes := by
  have h : bytes.foldl xorStep (x ^^^ xorSeed) = x ^^^ xor8 bytes :=
    List.foldl_assoc (op := fun a b : Byte => a ^^^ b)
  rwa [xorSeed, BitVec.ofNat_eq_ofNat, BitVec.xor_zero] at h

theorem xor8_append (l m : Bytes) : xor8 (l ++ m) = xor8 l ^^^ xor8 m := by
  rw [xor8, List.foldl_append, foldl_xorStep]
  rfl

theorem xor8_cons (b : Byte) (l : Bytes) : xor8 (b :: l) = b ^^^ xor8 l := by
  rw [xor8, List.foldl_cons, foldl_xorStep, xorStep, xorSeed, BitVec.ofNat_eq_ofNat, BitVec.zero_xor]

theorem xor8_perm {l m : Bytes} (h : l.Perm m) : xor8 l = xor8 m := by
  induction h with
  | nil => rfl
  | cons b _ ih => rw [xor8_cons, xor8_cons, ih]
  | swap a b l =>
    simp only [xor8_cons]
    ac_rfl
  | trans _ _ ih₁ ih₂ => exact ih₁.trans ih₂

/-- Settles O15: the digest of joined sequences is the exclusive-or of the digests. -/
theorem xorDigestIgnoresGroupingAndOrder : Obligations.XorDigestIgnoresGroupingAndOrder := by
  unfold Obligations.XorDigestIgnoresGroupingAndOrder
  refine ⟨rfl, fun l b => ?_, xor8_append, fun _ _ => xor8_perm⟩
  rw [xor8_append, xor8_cons]
  exact congrArg (xor8 l ^^^ ·) BitVec.xor_zero

/-- Two sequences that differ in one byte have different digests. -/
theorem xor8_replace_inj {l m : Bytes} {a b : Byte} (h : xor8 (l ++ a :: m) = xor8 (l ++ b :: m)) : a = b := by
  rw [xor8_append, xor8_append, xor8_cons, xor8_cons, BitVec.xor_right_inj, BitVec.xor_left_inj] at h
  exact h

/-- Flipping a bit of a byte changes the byte. -/
theorem flipBit_ne (b : Byte) {k : Nat} (hk : k < 8) : b ^^^ BitVec.ofNat 8 (2 ^ k) ≠ b := by
  intro h
  have hbit : (b ^^^ BitVec.ofNat 8 (2 ^ k)).getLsbD k = b.getLsbD k := congrArg (·.getLsbD k) h
  rw [BitVec.getLsbD_xor, getLsbD_bitMask k hk k hk] at hbit
  simp at hbit

/-- Settles O16: the flipped byte is another byte. -/
theorem singleBitFlipChangesXorDigest : Obligations.SingleBitFlipChangesXorDigest := by
  unfold Obligations.SingleBitFlipChangesXorDigest
  exact fun _ _ b _ hk h => flipBit_ne b hk (xor8_replace_inj h)

end Sys2Proof.Machine
end

section
/-! The CRC as arithmetic on natural numbers (rules R101 and R113). -/

namespace Sys2Proof.Machine

theorem toNat_append_byte (hi lo : Byte) : (hi ++ lo : U16).toNat = 256 * hi.toNat + lo.toNat := by
  rw [BitVec.toNat_append, ← Nat.shiftLeft_add_eq_or_of_lt lo.isLt, Nat.shiftLeft_eq, Nat.mul_comm]

/-- The bit tested before the shift is the one of weight 32768 (rule R101). -/
theorem crcTopBit_iff (c : U16) : c.getLsbD 15 = true ↔ 32768 ≤ c.toNat := by
  have h : c.getLsbD 15 = decide (32768 ≤ c.toNat) := c.msb_eq_getLsbD_last.symm.trans c.msb_eq_decide
  rw [h, decide_eq_true_eq]

theorem toNat_shiftLeft_one (c : U16) : (c <<< 1).toNat = 2 * c.toNat % 65536 := by
  rw [BitVec.toNat_shiftLeft, Nat.shiftLeft_eq, Nat.mul_comm, Nat.pow_one]

theorem toNat_crcShift (c : U16) : (crcShift c).toNat = crcIterate c.toNat := by
  unfold crcShift crcIterate
  simp only [crcTopBit_iff]
  split
  · rw [BitVec.toNat_xor, toNat_shiftLeft_one]
    rfl
  · exact toNat_shiftLeft_one c

theorem toNat_crcShifts (k : Nat) (c : U16) : (crcShifts k c).toNat = crcIterate^[k] c.toNat := by
  induction k generalizing c with
  | zero => rfl
  | succ k ih => rw [crcShifts, ih, toNat_crcShift, Function.iterate_succ_apply]

/-- The register with the byte in its bits 15:8 (rule R101). -/
theorem toNat_crcInput (c : U16) (b : Byte) : (c ^^^ (b ++ (0x00 : Byte))).toNat = c.toNat ^^^ (256 * b.toNat) := by
  rw [BitVec.toNat_xor, toNat_append_byte]
  rfl

/-- Settles O17: each of the eight iterations is the arithmetic one. -/
theorem crcStepIsBitSerial : Obligations.CrcStepIsBitSerial := by
  unfold Obligations.CrcStepIsBitSerial
  intro c b
  rw [crcStep, toNat_crcShifts, toNat_crcInput]

end Sys2Proof.Machine
end

section
/-! The polynomial over GF(2) of a number: its coefficients are the bits. -/

namespace Sys2Proof.Machine

open Polynomial

theorem coeff_bitsPoly (n i : Nat) : (bitsPoly n).coeff i = if n.testBit i then 1 else 0 := by
  have hterm : ∀ j, (if n.testBit j then (X : (ZMod 2)[X]) ^ j else 0).coeff i =
      if i = j then (if n.testBit j then 1 else 0) else 0 := by
    intro j
    split <;> simp [coeff_X_pow]
  rw [bitsPoly, finsetSum_coeff, Finset.sum_congr rfl fun j _ => hterm j, Finset.sum_ite_eq]
  split
  · rfl
  next hi =>
    have hlt : n < 2 ^ i := Nat.lt_log2_self.trans_le (Nat.pow_le_pow_right (by decide) (by simpa using hi))
    rw [Nat.testBit_lt_two_pow hlt]
    rfl

theorem bitsPoly_zero : bitsPoly 0 = 0 := by
  ext i
  simp [coeff_bitsPoly]

theorem bitsPoly_one : bitsPoly 1 = 1 := by
  ext i
  simp [coeff_bitsPoly, coeff_one, Nat.testBit_one_eq_true_iff_self_eq_zero]

/-- Exclusive-or adds polynomials over GF(2). -/
theorem bitsPoly_xor (m n : Nat) : bitsPoly (m ^^^ n) = bitsPoly m + bitsPoly n := by
  ext i
  rw [coeff_add, coeff_bitsPoly, coeff_bitsPoly, coeff_bitsPoly, Nat.testBit_xor]
  cases m.testBit i <;> cases n.testBit i <;> decide

/-- Numbers written one above the other, the lower in `k` bits. -/
theorem bitsPoly_two_pow_mul_add {k b : Nat} (hb : b < 2 ^ k) (a : Nat) :
    bitsPoly (2 ^ k * a + b) = bitsPoly a * X ^ k + bitsPoly b := by
  ext i
  rw [coeff_add, coeff_mul_X_pow', coeff_bitsPoly, coeff_bitsPoly, coeff_bitsPoly, Nat.testBit_two_pow_mul_add a hb]
  rcases Nat.lt_or_ge i k with hi | hi
  · rw [if_pos hi, if_neg hi.not_ge, zero_add]
  · have hbit : b.testBit i = false := Nat.testBit_lt_two_pow (hb.trans_le (Nat.pow_le_pow_right (by decide) hi))
    simp [hi, hi.not_gt, hbit]

theorem bitsPoly_two_pow_mul (k a : Nat) : bitsPoly (2 ^ k * a) = bitsPoly a * X ^ k := by
  have h := bitsPoly_two_pow_mul_add (Nat.two_pow_pos k) a
  rwa [bitsPoly_zero, add_zero, add_zero] at h

theorem degree_bitsPoly_lt {n k : Nat} (h : n < 2 ^ k) : (bitsPoly n).degree < k := by
  rw [degree_lt_iff_coeff_zero]
  intro i hi
  rw [coeff_bitsPoly, Nat.testBit_lt_two_pow (h.trans_le (Nat.pow_le_pow_right (by decide) hi))]
  rfl

theorem bitsPoly_eq_zero {n : Nat} (h : bitsPoly n = 0) : n = 0 := by
  refine Nat.eq_of_testBit_eq fun i => ?_
  have hcoeff := coeff_bitsPoly n i
  rw [h, coeff_zero] at hcoeff
  cases hbit : n.testBit i with
  | false => exact (Nat.zero_testBit i).symm
  | true => exact absurd (hcoeff.trans (if_pos hbit)) zero_ne_one

end Sys2Proof.Machine
end

section
/-! The CRC as a remainder: each iteration multiplies the register by `x`, modulo the CRC polynomial. -/

namespace Sys2Proof.Machine

open Polynomial

/-- The CRC polynomial with its leading term, which `crcPoly` leaves out (rule R6). -/
noncomputable def crcModulus : (ZMod 2)[X] := X ^ 16 + X ^ 12 + X ^ 5 + 1

theorem crcModulus_monic : crcModulus.Monic := by
  unfold crcModulus
  monicity!

theorem crcModulus_degree : crcModulus.degree = 16 := by
  unfold crcModulus
  compute_degree!

theorem bitsPoly_crcPoly : bitsPoly 0x1021 = X ^ 12 + X ^ 5 + 1 := by
  have h : (0x1021 : Nat) = 2 ^ 12 * 1 + (2 ^ 5 * 1 + 1) := rfl
  rw [h, bitsPoly_two_pow_mul_add (by decide), bitsPoly_two_pow_mul_add (by decide), bitsPoly_one]
  ring

/-- The residue class of the polynomial of a number modulo the CRC polynomial. -/
noncomputable def crcResidue (n : Nat) : AdjoinRoot crcModulus := AdjoinRoot.mk crcModulus (bitsPoly n)

theorem crcResidue_zero : crcResidue 0 = 0 := by
  rw [crcResidue, bitsPoly_zero, map_zero]

theorem crcResidue_xor (m n : Nat) : crcResidue (m ^^^ n) = crcResidue m + crcResidue n := by
  rw [crcResidue, bitsPoly_xor, map_add]
  rfl

/-- One byte more on the low side multiplies by `x^8`. -/
theorem crcResidue_mul_add_byte (n : Nat) (b : Byte) :
    crcResidue (256 * n + b.toNat) = crcResidue n * AdjoinRoot.root crcModulus ^ 8 + crcResidue b.toNat := by
  have h : bitsPoly (256 * n + b.toNat) = bitsPoly n * X ^ 8 + bitsPoly b.toNat := bitsPoly_two_pow_mul_add b.isLt n
  rw [crcResidue, h, map_add, map_mul, map_pow, AdjoinRoot.mk_X]
  rfl

/-- Doubling a register whose top bit is set carries out `x^16`. -/
theorem bitsPoly_carry {c : Nat} (hc : c < 65536) (htop : 32768 ≤ c) :
    bitsPoly c * X = X ^ 16 + bitsPoly (2 * c % 65536) := by
  have hsplit : 2 ^ 1 * c = 2 ^ 16 * 1 + 2 * c % 65536 := by omega
  have hlow : 2 * c % 65536 < 2 ^ 16 := Nat.mod_lt _ (by decide)
  have h := bitsPoly_two_pow_mul 1 c
  rw [hsplit, bitsPoly_two_pow_mul_add hlow, bitsPoly_one, one_mul, pow_one] at h
  exact h.symm

/-- Doubling a register whose top bit is clear loses nothing. -/
theorem bitsPoly_double {c : Nat} (htop : c < 32768) : bitsPoly c * X = bitsPoly (2 * c % 65536) := by
  rw [Nat.mod_eq_of_lt (by omega)]
  exact ((bitsPoly_two_pow_mul 1 c).trans (by rw [pow_one])).symm

/-- One iteration multiplies by `x`, less the CRC polynomial where the product reaches `x^16` (rule R101). -/
theorem crcResidue_crcIterate {c : Nat} (hc : c < 65536) :
    crcResidue (crcIterate c) = crcResidue c * AdjoinRoot.root crcModulus := by
  rw [crcResidue, crcResidue, ← AdjoinRoot.mk_X, ← map_mul, crcIterate]
  split
  next htop =>
    rw [bitsPoly_carry hc htop, bitsPoly_xor, bitsPoly_crcPoly, AdjoinRoot.mk_eq_mk]
    refine Dvd.intro (-1) ?_
    have htwo : (2 : (ZMod 2)[X]) = 0 := CharTwo.two_eq_zero
    rw [crcModulus]
    linear_combination -(X ^ 12 + X ^ 5 + 1) * htwo
  next htop => rw [bitsPoly_double (not_le.mp htop)]

theorem crcResidue_crcShifts (k : Nat) (c : U16) :
    crcResidue (crcShifts k c).toNat = crcResidue c.toNat * AdjoinRoot.root crcModulus ^ k := by
  induction k generalizing c with
  | zero => rw [crcShifts, pow_zero, mul_one]
  | succ k ih => rw [crcShifts, ih, toNat_crcShift, crcResidue_crcIterate c.isLt, pow_succ', mul_assoc]

/-- Absorbing a byte adds it above the register and multiplies by `x^8` (rule R101). -/
theorem crcResidue_crcStep (c : U16) (b : Byte) :
    crcResidue (crcStep c b).toNat = crcResidue c.toNat * AdjoinRoot.root crcModulus ^ 8 +
      crcResidue b.toNat * AdjoinRoot.root crcModulus ^ 16 := by
  have hbyte : crcResidue (256 * b.toNat) = crcResidue b.toNat * AdjoinRoot.root crcModulus ^ 8 + crcResidue 0 :=
    crcResidue_mul_add_byte b.toNat 0x00
  rw [crcStep, crcResidue_crcShifts, toNat_crcInput, crcResidue_xor, hbyte, crcResidue_zero]
  ring

theorem bytesNat_append_singleton (l : Bytes) (b : Byte) : bytesNat (l ++ [b]) = 256 * bytesNat l + b.toNat := by
  rw [bytesNat, List.foldl_append]
  rfl

theorem crc16_append_singleton (l : Bytes) (b : Byte) : crc16 (l ++ [b]) = crcStep (crc16 l) b := by
  rw [crc16, List.foldl_append]
  rfl

/-- The CRC is congruent to the seeded message times `x^16`: the seed and one byte after the other (rule R102). -/
theorem crcResidue_crc16 (bytes : Bytes) :
    crcResidue (crc16 bytes).toNat = crcResidue 0xFFFF * AdjoinRoot.root crcModulus ^ (8 * bytes.length) +
      crcResidue (bytesNat bytes) * AdjoinRoot.root crcModulus ^ 16 := by
  induction bytes using List.reverseRecOn with
  | nil =>
    rw [bytesNat, List.foldl_nil, crcResidue_zero, List.length_nil, Nat.mul_zero, pow_zero, mul_one, zero_mul, add_zero]
    rfl
  | append_singleton l b ih =>
    rw [crc16_append_singleton, crcResidue_crcStep, ih, bytesNat_append_singleton, crcResidue_mul_add_byte,
      List.length_append, List.length_singleton]
    ring

/-- The polynomial of a register is a remainder as it stands. -/
theorem bitsPoly_modByMonic (c : U16) : bitsPoly c.toNat %ₘ crcModulus = bitsPoly c.toNat := by
  rw [modByMonic_eq_self_iff crcModulus_monic, crcModulus_degree]
  exact degree_bitsPoly_lt c.isLt

/-- The polynomial of a register is the remainder of every polynomial of its residue class. -/
theorem bitsPoly_eq_modByMonic {c : U16} {p : (ZMod 2)[X]} (h : crcResidue c.toNat = AdjoinRoot.mk crcModulus p) :
    bitsPoly c.toNat = p %ₘ crcModulus :=
  (bitsPoly_modByMonic c).symm.trans (modByMonic_eq_of_dvd_sub crcModulus_monic (AdjoinRoot.mk_eq_mk.mp h))

/-- Settles O18, by induction on the message from its last byte. -/
theorem crcIsPolynomialRemainder : Obligations.CrcIsPolynomialRemainder := by
  unfold Obligations.CrcIsPolynomialRemainder
  intro bytes
  refine bitsPoly_eq_modByMonic ((crcResidue_crc16 bytes).trans ?_)
  rw [map_add, map_mul, map_mul, map_pow, map_pow, AdjoinRoot.mk_X]
  rfl

/-- A register in the residue class of zero is zero. -/
theorem eq_zero_of_crcResidue {c : U16} (h : crcResidue c.toNat = 0) : c = 0 := by
  have hpoly : bitsPoly c.toNat = 0 := by
    rw [bitsPoly_eq_modByMonic (h.trans (map_zero _).symm), zero_modByMonic]
  exact BitVec.eq_of_toNat_eq (bitsPoly_eq_zero hpoly)

/-- Absorbing the register's own two bytes, high byte first, cancels it: twice the same residue is zero. -/
theorem crcStep_own_bytes (c : U16) : crcStep (crcStep c (c.extractLsb' 8 8)) (c.extractLsb' 0 8) = 0 := by
  have hbytes : c.toNat = 256 * (c.extractLsb' 8 8).toNat + (c.extractLsb' 0 8).toNat := by
    rw [← toNat_append_byte, BitVec.extractLsb'_append_extractLsb' (len := 8) (w := 8)]
  have hresidue := congrArg crcResidue hbytes
  rw [crcResidue_mul_add_byte] at hresidue
  have htwo : (2 : AdjoinRoot crcModulus) = 0 := by
    have h := congrArg (AdjoinRoot.mk crcModulus) (CharTwo.two_eq_zero (R := (ZMod 2)[X]))
    rwa [map_ofNat, map_zero] at h
  refine eq_zero_of_crcResidue ?_
  rw [crcResidue_crcStep, crcResidue_crcStep]
  linear_combination AdjoinRoot.root crcModulus ^ 16 * (crcResidue c.toNat * htwo - hresidue)

/-- Settles O19: the two bytes more are those of the register. -/
theorem crcOfMessageAndItsCrcIsZero : Obligations.CrcOfMessageAndItsCrcIsZero := by
  unfold Obligations.CrcOfMessageAndItsCrcIsZero
  intro bytes
  rw [crc16, List.foldl_append]
  exact crcStep_own_bytes (crc16 bytes)

end Sys2Proof.Machine
end

section
/-! The commands CSINIT, CSPUT and VERIFY (rules R104, R105 and R108). -/

namespace Sys2Proof.Machine

/-- Settles O13: the seeds of rule R6 are the values loaded. -/
theorem csinitSeedsBothRegisters : Obligations.CsinitSeedsBothRegisters := by
  unfold Obligations.CsinitSeedsBothRegisters
  exact ⟨by decide, fun _ => rfl⟩

/-- A command word is its operation code, moved up, with the argument in the low byte (rule R70). -/
theorem cw_eq_or (op arg : Byte) : cw op arg = op.setWidth 16 <<< 8 ||| arg.setWidth 16 := by
  rw [cw, BitVec.append_def, BitVec.shiftLeftZeroExtend_eq, BitVec.setWidth'_eq]

/-- Settles O14: the step of each register. -/
theorem csputAbsorbsOneByte : Obligations.CsputAbsorbsOneByte := by
  unfold Obligations.CsputAbsorbsOneByte
  exact fun b s => ⟨cw_eq_or 0x02 b, rfl⟩

theorem exec_verify_of_holds {s : State} {bytes : Bytes} (alg : Alg) (h : s.holds bytes)
    (hw : s.isWritten (.control .expect) = true) :
    exec (.verify alg) s = .next (s.setMatch (decide (digest alg bytes = s.expect))) := by
  have hall : s.writtenAll (operandsOf (.verify alg)) := fun r hr => List.mem_singleton.mp hr ▸ hw
  exact andThen_eq_next.mpr ⟨bytes, message_eq_next.mpr h, andThen_requireWritten.mpr ⟨hall, rfl⟩⟩

/-- The digest of XOR8 is compared as a number, zero-extended (rules R103 and R108). -/
theorem digest_xor8_eq_iff {bytes : Bytes} {d : U16} : digest .xor8 bytes = d ↔ (xor8 bytes).toNat = d.toNat := by
  rw [← BitVec.toNat_inj, digest, BitVec.toNat_setWidth_of_le (by decide)]

/-- Settles O23: VERIFY writes the bit of MATCH, and the other bits and registers stay. -/
theorem verifyWritesMatchAlone : Obligations.VerifyWritesMatchAlone := by
  unfold Obligations.VerifyWritesMatchAlone
  refine ⟨by decide, by decide, fun s bytes alg h hw => ⟨_, exec_verify_of_holds alg h hw, ?_, ?_, rfl⟩⟩
  · rw [matchFlag_setMatch, decide_eq_true_eq]
    cases alg with
    | xor8 => exact digest_xor8_eq_iff
    | crc16 => exact BitVec.toNat_inj.symm
  · exact fun _ hk => setMatch_status_of_ne s _ hk

end Sys2Proof.Machine
end

section
/-! The printed numbers: `dec_u` is the one numeral of its number, `hex_w` spells its digits, `fmt_fixed` rounds to the
nearest (rules R133, R136 and R138). -/

namespace Sys2Proof.Machine

/-! ### `dec_u` is the only numeral -/

theorem isDigits_iff {p : Bytes} : isDigits p = true ↔ p ≠ [] ∧ ∀ b ∈ p, isDigit b = true := by
  rw [isDigits, Bool.and_eq_true, List.all_eq_true, Bool.not_eq_true', List.isEmpty_eq_false_iff]

theorem isDigit_iff {b : Byte} : isDigit b = true ↔ 0x30 ≤ b.toNat ∧ b.toNat ≤ 0x39 := by
  rw [isDigit, Bool.and_eq_true, decide_eq_true_eq, decide_eq_true_eq]

theorem isDigits_decU (n : Nat) : isDigits (decU n) = true :=
  isDigits_iff.mpr ⟨decU_ne_nil n, List.all_eq_true.mp (decU_all_isDigit n)⟩

/-- A digit is the character of a number below ten. -/
theorem eq_digitChar {b : Byte} (h : isDigit b = true) : ∃ d, d < 10 ∧ b = digitChar d := by
  obtain ⟨hlo, hhi⟩ := isDigit_iff.mp h
  have hlt : b.toNat - 0x30 < 10 := by omega
  refine ⟨b.toNat - 0x30, hlt, BitVec.eq_of_toNat_eq ?_⟩
  rw [digitChar_toNat hlt]
  omega

/-- A numeral without a needless zero in front is the text of its number: by induction on the digits from the last one,
the others being a numeral of the same form. -/
theorem eq_decU {p : Bytes} (hdigits : isDigits p = true) (hzero : p.head? = some chZero → p = [chZero]) :
    p = decU (digitsValue p) := by
  induction p using List.reverseRecOn with
  | nil => cases hdigits
  | append_singleton p b ih =>
    obtain ⟨-, hall⟩ := isDigits_iff.mp hdigits
    obtain ⟨d, hd, rfl⟩ := eq_digitChar (hall b (by simp))
    rw [digitsValue_concat_digitChar p hd]
    rcases eq_or_ne p [] with rfl | hne
    · rw [show 10 * digitsValue [] + d = d from Nat.zero_add d, decU_of_lt hd]
      rfl
    · have hhead : p.head? ≠ some chZero := fun h => by
        rw [List.head?_append_of_ne_nil _ hne] at hzero
        have hlen := congrArg List.length (hzero h)
        rw [List.length_append, List.length_singleton, List.length_singleton] at hlen
        exact hne (List.length_eq_zero_iff.mp (by omega))
      have hp : p = decU (digitsValue p) :=
        ih (isDigits_iff.mpr ⟨hne, fun b hb => hall b (List.mem_append_left _ hb)⟩) fun h => absurd h hhead
      have hpos : digitsValue p ≠ 0 := fun h0 => hhead (by rw [hp, h0]; rfl)
      rw [decU_of_ge (by omega), show (10 * digitsValue p + d) / 10 = digitsValue p by omega,
        show (10 * digitsValue p + d) % 10 = d by omega, ← hp]

/-- Settles O27: the text of a number is its numeral, and every such numeral is it. -/
theorem decimalTextIsTheNumeral : Obligations.DecimalTextIsTheNumeral := by
  unfold Obligations.DecimalTextIsTheNumeral
  refine ⟨rfl, fun n => ⟨isDigits_decU n, digitsValue_decU n, fun h => ?_, fun t ht hn hzero => ?_⟩⟩
  · rw [decU_head_zero h]
    rfl
  · exact hn ▸ eq_decU ht hzero

/-! ### `hex_w` -/

theorem hexChar_inj : ∀ a < 16, ∀ b < 16, hexChar a = hexChar b → a = b := by decide

/-- Character `k` is the digit of the four bits from `4 * (w - 1 - k)` on (rule R138). -/
theorem hexW_getElem? (v : Nat) {w k : Nat} (hk : k < w) :
    (hexW v w)[k]? = some (hexChar (v >>> (4 * (w - 1 - k)) % 16)) := by
  induction w generalizing k with
  | zero => omega
  | succ w ih =>
    rw [hexW]
    cases k with
    | zero =>
      rw [List.getElem?_cons_zero, Nat.shiftRight_eq_div_pow, pow_mul]
      rfl
    | succ k =>
      rw [List.getElem?_cons_succ, ih (by omega), show w + 1 - 1 - (k + 1) = w - 1 - k by omega]

/-- The text tells the `w` low hexadecimal digits of the number. -/
theorem mod_eq_of_hexW_eq {v v' w : Nat} (h : hexW v w = hexW v' w) : v % 16 ^ w = v' % 16 ^ w := by
  induction w with
  | zero => rw [pow_zero, Nat.mod_one, Nat.mod_one]
  | succ w ih =>
    rw [hexW, hexW, List.cons.injEq] at h
    obtain ⟨hchar, hrest⟩ := h
    have hdigit : v / 16 ^ w % 16 = v' / 16 ^ w % 16 :=
      hexChar_inj _ (Nat.mod_lt _ (by decide)) _ (Nat.mod_lt _ (by decide)) hchar
    rw [pow_succ, Nat.mod_mul, Nat.mod_mul, ih hrest, hdigit]

/-- Settles O28: the characters are the digits of the number, and digits differ in their characters. -/
theorem hexTextSpellsTheNumber : Obligations.HexTextSpellsTheNumber := by
  unfold Obligations.HexTextSpellsTheNumber
  refine ⟨fun d hd => if_pos hd, fun d hd _ => if_neg (by omega), fun v w => ⟨hexW_length v w,
    fun k hk => hexW_getElem? v hk, fun v' hv hv' h => ?_⟩⟩
  rw [← Nat.mod_eq_of_lt hv, ← Nat.mod_eq_of_lt hv', mod_eq_of_hexW_eq h]

/-! ### The rounding of `fmt_fixed` -/

/-- Halfway between two integers, rounding half to even gives the even one. -/
theorem roundHalfEven_tie {x y : Nat} (hy : 0 < y)
    (h : 2 * x = 2 * y * roundHalfEven x y + y ∨ 2 * y * roundHalfEven x y = 2 * x + y) :
    roundHalfEven x y % 2 = 0 := by
  have hdiv := Nat.div_add_mod x y
  have hmod := Nat.mod_lt x hy
  unfold roundHalfEven at h ⊢
  generalize x / y = q at *
  generalize x % y = r at *
  subst hdiv
  dsimp only at h ⊢
  split_ifs at h ⊢ with hup
  · rcases h with h | h
    · nlinarith
    · have : 2 * r = y := by nlinarith
      omega
  · rcases h with h | h
    · have : 2 * r = y := by nlinarith
      omega
    · nlinarith

/-- A multiple of the unit bounds the rounded number as it bounds the number. -/
theorem roundHalfEven_le_of_le {x y k : Nat} (hy : 0 < y) (h : x ≤ k * y) : roundHalfEven x y ≤ k := by
  unfold roundHalfEven
  dsimp only
  rcases h.lt_or_eq with hlt | rfl
  · have : x / y < k := (Nat.div_lt_iff_lt_mul hy).mpr hlt
    split <;> omega
  · rw [Nat.mul_div_cancel _ hy, Nat.mul_mod_left, if_neg (by omega)]

theorem abs_eq_natAbs_div (r : Rat) : |r| = (r.num.natAbs : Rat) / r.den := by
  rw [Rat.abs_def, Rat.divInt_eq_div, Int.cast_natCast, Int.cast_natCast]

/-- The exact magnitude in units of the last printed digit, as the quotient that is rounded (rule R136). -/
theorem abs_val_mul_pow {T : Type} (N : Num T) (v : T) (p : Nat) :
    |N.val v| * 10 ^ p = (((N.val v).num.natAbs * 10 ^ p : Nat) : Rat) / (N.val v).den := by
  rw [abs_eq_natAbs_div, div_mul_eq_mul_div]
  norm_cast

/-- Rounding half to even gives a nearest integer, the even one of two. -/
theorem roundHalfEven_nearest (x : Nat) {y : Nat} (hy : 0 < y) :
    |(roundHalfEven x y : Rat) - (x : Rat) / y| ≤ 1 / 2 ∧
    (|(roundHalfEven x y : Rat) - (x : Rat) / y| = 1 / 2 → roundHalfEven x y % 2 = 0) := by
  have hpos : (0 : Rat) < y := Nat.cast_pos.mpr hy
  have hx : (x : Rat) / y * y = x := div_mul_cancel₀ _ hpos.ne'
  constructor
  · obtain ⟨hlo, hhi⟩ := roundHalfEven_near x hy
    have hlo : (2 : Rat) * x ≤ 2 * y * roundHalfEven x y + y := by exact_mod_cast hlo
    have hhi : (2 : Rat) * y * roundHalfEven x y ≤ 2 * x + y := by exact_mod_cast hhi
    rw [abs_le]
    constructor <;> nlinarith
  · intro htie
    refine roundHalfEven_tie hy ?_
    rcases (abs_eq (by norm_num)).mp htie with h | h
    · right
      have : (2 : Rat) * y * roundHalfEven x y = 2 * x + y := by linear_combination 2 * y * h + 2 * hx
      exact_mod_cast this
    · left
      have : (2 : Rat) * x = 2 * y * roundHalfEven x y + y := by linear_combination -2 * y * h - 2 * hx
      exact_mod_cast this

/-- Settles O29: the quotient rounded is the exact magnitude in units of the last digit. -/
theorem fixedPointRoundsHalfEven : Obligations.FixedPointRoundsHalfEven := by
  unfold Obligations.FixedPointRoundsHalfEven
  intro T N v p
  rw [abs_val_mul_pow]
  exact roundHalfEven_nearest _ (N.val v).den_pos

end Sys2Proof.Machine
end

section
/-! The pieces of a payload and what they parse to: splitting, the timestamp, the numbers, and the text of `fmt_fixed`
read back (rules R147 and R150 to R152). -/

namespace Sys2Proof.Machine

/-! ### Splitting -/

theorem splitOn_ne_nil (sep : Byte) (bytes : Bytes) : splitOn sep bytes ≠ [] := by
  cases bytes with
  | nil => exact List.cons_ne_nil _ _
  | cons b bytes =>
    rw [splitOn]
    split
    · exact List.cons_ne_nil _ _
    · split <;> exact List.cons_ne_nil _ _

/-- A byte more in front opens a new piece, or lengthens the first one (rule R147). -/
theorem splitOn_cons (sep b : Byte) (bytes : Bytes) :
    ∃ p ps, splitOn sep bytes = p :: ps ∧
      splitOn sep (b :: bytes) = if b = sep then [] :: p :: ps else (b :: p) :: ps := by
  obtain ⟨p, ps, hsplit⟩ := List.exists_cons_of_ne_nil (splitOn_ne_nil sep bytes)
  exact ⟨p, ps, hsplit, by rw [splitOn, hsplit]⟩

/-- A byte more in the first piece is a byte more in front of the whole. -/
theorem joinComma_cons_cons (b : Byte) (p : Bytes) (ps : List Bytes) :
    joinComma ((b :: p) :: ps) = b :: joinComma (p :: ps) := by
  cases ps <;> rfl

/-- The pieces hold no comma, are one more than the commas, and joined give the sequence back (rule R147). -/
theorem splitOn_comma_spec (bytes : Bytes) : joinComma (splitOn chComma bytes) = bytes ∧
    (∀ p ∈ splitOn chComma bytes, chComma ∉ p) ∧ (splitOn chComma bytes).length = bytes.count chComma + 1 := by
  induction bytes with
  | nil => exact ⟨rfl, by simp [splitOn], rfl⟩
  | cons b bytes ih =>
    obtain ⟨p, ps, hsplit, hcons⟩ := splitOn_cons chComma b bytes
    rw [hsplit] at ih
    obtain ⟨hjoin, hcomma, hcount⟩ := ih
    rw [hcons]
    split
    next heq =>
      subst heq
      refine ⟨congrArg (chComma :: ·) hjoin, ?_, ?_⟩
      · exact List.forall_mem_cons.mpr ⟨List.not_mem_nil, hcomma⟩
      · rw [List.length_cons, hcount, List.count_cons_self]
    next hne =>
      obtain ⟨hp, hps⟩ := List.forall_mem_cons.mp hcomma
      refine ⟨by rw [joinComma_cons_cons, hjoin], ?_, ?_⟩
      · refine List.forall_mem_cons.mpr ⟨fun hmem => ?_, hps⟩
        exact (List.mem_cons.mp hmem).elim (fun heq => hne heq.symm) hp
      · rw [List.count_cons_of_ne hne]
        exact hcount

/-- Settles O33: by induction on the sequence, and on the pieces. -/
theorem splitInvertsJoin : Obligations.SplitInvertsJoin := by
  unfold Obligations.SplitInvertsJoin
  refine ⟨splitOn_comma_spec, fun ps hne hcomma => ?_⟩
  obtain ⟨p, ps, rfl⟩ := List.exists_cons_of_ne_nil hne
  exact splitOn_joinComma p ps hcomma

/-! ### The timestamp -/

theorem parseTs_eq_some {p : Bytes} {t : U32} :
    parseTs p = some t ↔ isDigits p = true ∧ digitsValue p < 2 ^ 32 ∧ t.toNat = digitsValue p := by
  unfold parseTs
  split
  next h =>
    rw [Bool.and_eq_true, decide_eq_true_eq] at h
    obtain ⟨hdigits, hlt⟩ := h
    have hval : (BitVec.ofNat 32 (digitsValue p)).toNat = digitsValue p :=
      (BitVec.toNat_ofNat _ _).trans (Nat.mod_eq_of_lt hlt)
    rw [Option.some.injEq, ← BitVec.toNat_inj, hval]
    exact ⟨fun heq => ⟨hdigits, hlt, heq.symm⟩, fun ⟨_, _, heq⟩ => heq.symm⟩
  next h =>
    rw [Bool.and_eq_true, decide_eq_true_eq] at h
    exact ⟨nofun, fun ⟨hdigits, hlt, _⟩ => absurd ⟨hdigits, hlt⟩ h⟩

/-- Settles O32: the two tests of the parser are those of the rule. -/
theorem timestampGrammarIsExact : Obligations.TimestampGrammarIsExact := by
  unfold Obligations.TimestampGrammarIsExact
  intro p t
  rw [parseTs_eq_some, isDigits_iff, and_assoc]
  simp only [isDigit_iff]

/-- The printed timestamp is read back (rules R133 and R151). -/
theorem parseTs_decU (t : U32) : parseTs (decU t.toNat) = some t :=
  parseTs_eq_some.mpr ⟨isDigits_decU _, by rw [digitsValue_decU]; exact t.isLt, (digitsValue_decU _).symm⟩

/-! ### Numbers -/

/-- The sequence is `1*DIGIT [ "." 1*DIGIT ]` and denotes the magnitude `r` (rule R150). -/
def denotes (p : Bytes) (r : Rat) : Prop :=
  ∃ int, isDigits int = true ∧
    ((p = int ∧ r = digitsValue int) ∨
      ∃ frac, isDigits frac = true ∧ p = int ++ chPoint :: frac ∧
        r = (digitsValue (int ++ frac) : Rat) / 10 ^ frac.length)

/-- The digits in front end where the first other byte stands. -/
theorem span_isDigit {int rest : Bytes} (hint : ∀ b ∈ int, isDigit b = true)
    (hrest : ∀ b ∈ rest.head?, isDigit b = false) :
    (int ++ rest).takeWhile isDigit = int ∧ (int ++ rest).dropWhile isDigit = rest := by
  rw [List.takeWhile_append_of_pos hint, List.dropWhile_append_of_pos hint]
  cases rest with
  | nil => exact ⟨List.append_nil _, rfl⟩
  | cons b rest =>
    have hb : ¬isDigit b = true := by rw [hrest b rfl]; decide
    rw [List.takeWhile_cons_of_neg hb, List.dropWhile_cons_of_neg hb, List.append_nil]
    exact ⟨rfl, rfl⟩

theorem parseMagnitude_of_digits {int : Bytes} (h : isDigits int = true) :
    parseMagnitude int = some (digitsValue int : Rat) := by
  obtain ⟨hne, hall⟩ := isDigits_iff.mp h
  obtain ⟨htake, hdrop⟩ := span_isDigit (rest := []) hall (by simp)
  rw [List.append_nil] at htake hdrop
  simp only [parseMagnitude, htake, hdrop, List.isEmpty_eq_false_iff.mpr hne, Bool.false_eq_true, if_false,
    Rat.mkRat_eq_div, Int.cast_natCast, Nat.cast_one, div_one]

theorem parseMagnitude_of_point {int frac : Bytes} (h : isDigits int = true) (hfrac : isDigits frac = true) :
    parseMagnitude (int ++ chPoint :: frac) = some ((digitsValue (int ++ frac) : Rat) / 10 ^ frac.length) := by
  obtain ⟨hne, hall⟩ := isDigits_iff.mp h
  obtain ⟨htake, hdrop⟩ := span_isDigit (rest := chPoint :: frac) hall (by simp; decide)
  simp only [parseMagnitude, htake, hdrop, List.isEmpty_eq_false_iff.mpr hne, Bool.false_eq_true, if_false,
    hfrac, decide_true, Bool.and_true, if_true,
    Rat.mkRat_eq_div, Int.cast_natCast, Nat.cast_pow, Nat.cast_ofNat]

/-- Exactly the magnitudes of the grammar are read, each as its digits denote (rules R150 and R152). -/
theorem parseMagnitude_eq_some {p : Bytes} {r : Rat} : parseMagnitude p = some r ↔ denotes p r := by
  constructor
  · intro h
    have hp : p.takeWhile isDigit ++ p.dropWhile isDigit = p := List.takeWhile_append_dropWhile
    have hall : ∀ b ∈ p.takeWhile isDigit, isDigit b = true := fun b hb => List.mem_takeWhile_imp hb
    unfold parseMagnitude at h
    dsimp only at h
    split at h
    · cases h
    next hne =>
      have hint : isDigits (p.takeWhile isDigit) = true :=
        isDigits_iff.mpr ⟨fun h0 => hne (by rw [h0]; rfl), hall⟩
      refine ⟨p.takeWhile isDigit, hint, ?_⟩
      split at h
      next hrest =>
        rw [hrest, List.append_nil] at hp
        refine .inl ⟨hp.symm, ?_⟩
        rw [← Option.some.inj h, Rat.mkRat_eq_div, Nat.cast_one, div_one, Int.cast_natCast]
      next b frac hrest =>
        split at h
        next hpoint =>
          rw [Bool.and_eq_true, decide_eq_true_eq] at hpoint
          obtain ⟨rfl, hfrac⟩ := hpoint
          refine .inr ⟨frac, hfrac, by rw [← hrest, hp], ?_⟩
          rw [← Option.some.inj h, Rat.mkRat_eq_div, Int.cast_natCast, Nat.cast_pow, Nat.cast_ofNat]
        next => cases h
  · rintro ⟨int, hint, ⟨rfl, rfl⟩ | ⟨frac, hfrac, rfl, rfl⟩⟩
    · exact parseMagnitude_of_digits hint
    · exact parseMagnitude_of_point hint hfrac

/-- A numeral begins with a digit. -/
theorem denotes.head {p : Bytes} {r : Rat} (h : denotes p r) : ∃ b q, p = b :: q ∧ isDigit b = true := by
  obtain ⟨int, hint, hp⟩ := h
  obtain ⟨hne, hall⟩ := isDigits_iff.mp hint
  obtain ⟨b, q, rfl⟩ := List.exists_cons_of_ne_nil hne
  refine ⟨b, ?_⟩
  obtain ⟨rfl, -⟩ | ⟨frac, -, rfl, -⟩ := hp
  · exact ⟨_, rfl, hall b List.mem_cons_self⟩
  · exact ⟨_, rfl, hall b List.mem_cons_self⟩

/-- A sign and a magnitude are read exactly where the text of the sign stands before that of the magnitude (rule
R150). -/
theorem parseNumeral_eq_some {p : Bytes} {neg : Bool} {r : Rat} :
    parseNumeral p = some (neg, r) ↔ ∃ m, p = signText neg ++ m ∧ denotes m r := by
  constructor
  · intro h
    cases p with
    | nil => cases h
    | cons b q =>
      rw [parseNumeral] at h
      split at h <;> obtain ⟨r', hr, heq⟩ := Option.map_eq_some_iff.mp h <;>
        obtain ⟨rfl, rfl⟩ := Prod.mk.inj heq
      next hb => exact ⟨q, by rw [hb]; rfl, parseMagnitude_eq_some.mp hr⟩
      next => exact ⟨b :: q, rfl, parseMagnitude_eq_some.mp hr⟩
  · rintro ⟨m, rfl, hm⟩
    have hread := parseMagnitude_eq_some.mpr hm
    cases neg with
    | true =>
      show parseNumeral (chMinus :: m) = _
      rw [parseNumeral, if_pos rfl, hread]
      rfl
    | false =>
      obtain ⟨b, q, rfl, hb⟩ := hm.head
      have hne : b ≠ chMinus := by
        rintro rfl
        cases hb
      show parseNumeral (b :: q) = _
      rw [parseNumeral, if_neg hne, hread]
      rfl

/-- The digits of `fmt_fixed` denote the integer it prints, `p` places down (rules R136 and R150). -/
theorem pointText_denotes (n p : Nat) : denotes (pointText n p) (mkRat n (10 ^ p)) := by
  have hvalue : digitsValue (intDigits n p ++ fracDigits n p) = n := by
    rw [intDigits_append_fracDigits, digitsValue_padDigits]
  have hlen := fracDigits_length n p
  refine ⟨intDigits n p, isDigits_intDigits n p, ?_⟩
  rw [pointText_eq, Rat.mkRat_eq_div]
  rcases eq_or_ne p 0 with rfl | hp
  · left
    rw [List.length_eq_zero_iff.mp hlen, List.append_nil] at hvalue
    rw [hvalue]
    simp
  · right
    have hfrac : isDigits (fracDigits n p) = true :=
      isDigits_iff.mpr ⟨List.ne_nil_of_length_pos (by omega),
        List.all_eq_true.mp (intDigits_all_and_fracDigits_all n p).2⟩
    refine ⟨fracDigits n p, hfrac, by rw [if_neg hp], ?_⟩
    rw [hvalue, hlen, Int.cast_natCast, Nat.cast_pow, Nat.cast_ofNat]

/-- Every text of `fmt_fixed` is read as the sign and the magnitude printed (rules R136 and R150). -/
theorem parseNumeral_fmtFixed {T : Type} (N : Num T) (v : T) (p : Nat) :
    parseNumeral (fmtFixed N v p) = some (N.neg v, fixedValue N v p) :=
  parseNumeral_eq_some.mpr ⟨_, rfl, pointText_denotes _ p⟩

theorem parseNum_eq_some {T : Type} {N : Num T} {p : Bytes} {v : T} :
    parseNum N p = some v ↔ ∃ neg r, parseNumeral p = some (neg, r) ∧ N.ofDec neg r = some v := by
  unfold parseNum
  cases parseNumeral p with
  | none => simp
  | some numeral => simp [Prod.ext_iff]

theorem parseNum_fmtFixed {T : Type} (N : Num T) (v : T) (p : Nat) :
    parseNum N (fmtFixed N v p) = N.ofDec (N.neg v) (fixedValue N v p) := by
  rw [parseNum, parseNumeral_fmtFixed]

/-- Settles O31: a numeral is the text of its sign and a magnitude of the grammar, as `fmt_fixed` prints it. -/
theorem numberGrammarIsExact : Obligations.NumberGrammarIsExact := by
  unfold Obligations.NumberGrammarIsExact
  refine ⟨fun p neg r => ?_, fun T N p v => parseNum_eq_some, fun T N v p => parseNumeral_fmtFixed N v p⟩
  rw [parseNumeral_eq_some]
  constructor
  · rintro ⟨_, rfl, int, hint, ⟨rfl, hr⟩ | ⟨frac, hfrac, rfl, hr⟩⟩
    · exact ⟨_, hint, .inl ⟨rfl, hr⟩⟩
    · exact ⟨int, hint, .inr ⟨frac, hfrac, by rw [List.append_assoc], hr⟩⟩
  · rintro ⟨int, hint, ⟨rfl, hr⟩ | ⟨frac, hfrac, rfl, hr⟩⟩
    · exact ⟨_, rfl, int, hint, .inl ⟨rfl, hr⟩⟩
    · exact ⟨_, List.append_assoc _ _ _, int, hint, .inr ⟨frac, hfrac, rfl, hr⟩⟩

end Sys2Proof.Machine
end

section
/-! Encoding and then decoding a frame, for every `NUM` (rules R131, R142 and R154). -/

namespace Sys2Proof.Machine

/-! ### The characters of a frame -/

/-- The characters a number is printed with (rules R133 and R136). -/
def numberChar (b : Byte) : Prop := isDigit b = true ∨ b = chPoint ∨ b = chMinus

theorem decU_numberChar {n : Nat} {b : Byte} (h : b ∈ decU n) : numberChar b :=
  .inl (List.all_eq_true.mp (decU_all_isDigit n) b h)

theorem pointText_numberChar {n p : Nat} {b : Byte} (h : b ∈ pointText n p) : numberChar b := by
  obtain ⟨hint, hfrac⟩ := intDigits_all_and_fracDigits_all n p
  rw [pointText_eq, List.mem_append] at h
  rcases h with h | h
  · exact .inl (List.all_eq_true.mp hint b h)
  · split at h
    · cases h
    · rcases List.mem_cons.mp h with rfl | h
      · exact .inr (.inl rfl)
      · exact .inl (List.all_eq_true.mp hfrac b h)

theorem fmtFixed_numberChar {T : Type} {N : Num T} {v : T} {p : Nat} {b : Byte} (h : b ∈ fmtFixed N v p) :
    numberChar b := by
  rcases List.mem_append.mp h with h | h
  · split at h
    · exact .inr (.inr (List.mem_singleton.mp h))
    · cases h
  · exact pointText_numberChar h

/-- No tag and no number holds a comma or a star, so the pieces and the payload of an encoding can be told apart. -/
theorem not_numberChar_separators : ¬numberChar chComma ∧ ¬numberChar chStar := by
  unfold numberChar
  decide

theorem tag_separators : ∀ e ∈ Config.fmtTable, chComma ∉ e.tag ∧ chStar ∉ e.tag := by decide

/-- A byte of joined pieces is a comma or a byte of a piece. -/
theorem mem_joinComma {b : Byte} {ps : List Bytes} (h : b ∈ joinComma ps) : b = chComma ∨ ∃ p ∈ ps, b ∈ p := by
  induction ps with
  | nil => cases h
  | cons p ps ih =>
    cases ps with
    | nil => exact .inr ⟨p, List.mem_singleton_self p, h⟩
    | cons q ps =>
      rcases List.mem_append.mp h with h | h
      · exact .inr ⟨p, List.mem_cons_self, h⟩
      · rcases List.mem_cons.mp h with h | h
        · exact .inl h
        · exact (ih h).imp_right fun ⟨r, hr, hb⟩ => ⟨r, List.mem_cons_of_mem p hr, hb⟩

/-! ### The pieces of an encoded frame -/

/-- The texts of the timestamp and the fields of a payload (rule R131). -/
def encodedPieces {T : Type} (N : Num T) (t : U32) (fields : List (T × Nat)) : List Bytes :=
  decU t.toNat :: fields.map fun f => fmtFixed N f.1 f.2

theorem append_encodeFields {T : Type} (N : Num T) (p : Bytes) (fields : List (T × Nat)) :
    p ++ encodeFields N fields = joinComma (p :: fields.map fun f => fmtFixed N f.1 f.2) := by
  induction fields generalizing p with
  | nil => exact List.append_nil p
  | cons f fields ih => exact congrArg (p ++ chComma :: ·) (ih (fmtFixed N f.1 f.2))

/-- The payload is the tag and the printed values with commas between (rules R78 and R131). -/
theorem encodePayload_eq {T : Type} (N : Num T) (e : FrameFormat) (t : U32) (fields : List (T × Nat)) :
    encodePayload N e t fields = joinComma (e.tag :: encodedPieces N t fields) := by
  rw [encodePayload, List.append_assoc]
  exact congrArg (e.tag ++ chComma :: ·) (append_encodeFields N (decU t.toNat) fields)

theorem encodedPieces_numberChar {T : Type} {N : Num T} {t : U32} {fields : List (T × Nat)} {p : Bytes}
    (hp : p ∈ encodedPieces N t fields) {b : Byte} (hb : b ∈ p) : numberChar b := by
  rcases List.mem_cons.mp hp with rfl | hp
  · exact decU_numberChar hb
  · obtain ⟨f, -, rfl⟩ := List.mem_map.mp hp
    exact fmtFixed_numberChar hb

/-- A character of no tag and of no number is in no piece of an encoded frame. -/
theorem notMem_encodedPieces {T : Type} (N : Num T) {tag : Bytes} (t : U32) (fields : List (T × Nat)) {c : Byte}
    (htag : c ∉ tag) (hc : ¬numberChar c) : ∀ p ∈ tag :: encodedPieces N t fields, c ∉ p :=
  List.forall_mem_cons.mpr ⟨htag, fun _ hp hb => hc (encodedPieces_numberChar hp hb)⟩

/-- An encoded frame has its markers and its digest right, around these pieces (rules R131, R144 and R146). -/
theorem encodeFrame_checked {T : Type} (N : Num T) {e : FrameFormat} (he : e ∈ Config.fmtTable) (t : U32)
    (fields : List (T × Nat)) :
    checkedFrame (encodeFrame N e t fields) e.alg e.tag (encodedPieces N t fields) := by
  obtain ⟨hcomma, hstar⟩ := tag_separators e he
  obtain ⟨hnotComma, hnotStar⟩ := not_numberChar_separators
  refine ⟨⟨[], ?_, List.not_mem_nil, List.not_mem_nil, fun hmem => ?_⟩,
    notMem_encodedPieces N t fields hcomma hnotComma⟩
  · rw [encodeFrame, encodePayload_eq]
    rfl
  · rcases mem_joinComma hmem with h | ⟨p, hp, hb⟩
    · exact absurd h (by decide)
    · exact notMem_encodedPieces N t fields hstar hnotStar p hp hb

/-! ### The round trip -/

/-- The fields of an encoded frame are read as the values of the printed magnitudes (rules R136 and R152). -/
theorem parse_printed_fields {T : Type} (N : Num T) (fields : List (T × Nat)) :
    (fields.map fun f => fmtFixed N f.1 f.2).map (parseNum N) =
      fields.map fun f => N.ofDec (N.neg f.1) (fixedValue N f.1 f.2) := by
  rw [List.map_map]
  exact List.map_congr_left fun f _ => parseNum_fmtFixed N f.1 f.2

/-- Settles O45: an encoded frame passes each check of the parse, and every piece is read back. -/
theorem codecRoundTripForEveryNum : Obligations.CodecRoundTripForEveryNum := by
  unfold Obligations.CodecRoundTripForEveryNum
  intro T N e t fields values he hlen hvalues
  have hframe := encodeFrame_checked N he t fields
  have hcount : (encodedPieces N t fields).length = 1 + e.fields.length := by
    rw [encodedPieces, List.length_cons, List.length_map, hlen, Nat.add_comm]
  rw [parseFrame_of_checkedFrame N _ hframe, parsePayload_of_count N (findFormat_tag e he) hframe.2 hcount]
  exact parseFields_of_parse (parseTs_decU t) ((parse_printed_fields N fields).trans hvalues)

/-! ### Printed values of binary32 -/

theorem fixedValue_eq_div {T : Type} (N : Num T) (v : T) (p : Nat) :
    fixedValue N v p = (fixedUnits N v p : Rat) / 10 ^ p := by
  rw [fixedValue, Rat.mkRat_eq_div, Int.cast_natCast, Nat.cast_pow, Nat.cast_ofNat]

/-- A printed value is within half a unit of its last digit (rule R136). -/
theorem fixedValue_near {T : Type} (N : Num T) (v : T) (p : Nat) :
    |fixedValue N v p - abs (N.val v)| ≤ 1 / 2 / 10 ^ p := by
  have hpos : (0 : Rat) < 10 ^ p := by positivity
  obtain ⟨hround, -⟩ := fixedPointRoundsHalfEven T N v p
  have hscale : fixedValue N v p - abs (N.val v) = ((fixedUnits N v p : Rat) - |N.val v| * 10 ^ p) / 10 ^ p := by
    rw [fixedValue_eq_div, sub_div, mul_div_cancel_right₀ _ hpos.ne']
  rw [hscale, abs_div, abs_of_pos hpos]
  exact div_le_div_of_nonneg_right hround hpos.le

/-- The largest finite magnitude, an integer. -/
def b32Largest : Nat := (2 ^ 24 - 1) * 2 ^ 104

theorem b32Val_largest : b32Val (.fin false 0x7F7FFFFF) = b32Largest := by
  have hunits : b32Signed false (0x7F7FFFFF : Fin 0x7F800000).val = (((2 ^ 25 - 2) * 2 ^ 252 : Nat) : Int) :=
    congrArg Nat.cast b32Units_largest
  rw [b32Val_fin_rat, hunits, b32Largest]
  norm_num

theorem abs_b32Val_le_largest (v : Scalar) : |b32Val v| ≤ b32Largest := by
  rw [← b32Val_largest]
  cases v with
  | fin neg c =>
    have hle : (b32Units c.val : ℝ) ≤ b32Units (0x7F7FFFFF : Fin 0x7F800000).val :=
      b32Units_le_cast (Nat.le_of_lt_succ c.isLt)
    rw [← Rat.cast_le (K := ℝ), Rat.cast_abs, b32Val_fin, abs_signFactor_mul_unitsValue neg (Nat.cast_nonneg _),
      b32Val_pos_eq]
    exact unitsValue_le_iff.mpr hle
  | nan | inf =>
    rw [b32Val_largest]
    exact (abs_zero (α := Rat)).trans_le (Nat.cast_nonneg _)

/-- Rounding to decimals does not pass an integer, so a printed value is a magnitude of binary32 at most. -/
theorem fixedValue_le_largest (v : Scalar) (p : Nat) : fixedValue num v p ≤ b32Largest := by
  have hden : (0 : Rat) < (b32Val v).den := Nat.cast_pos.mpr (b32Val v).den_pos
  have hle : |num.val v| * 10 ^ p ≤ b32Largest * 10 ^ p :=
    mul_le_mul_of_nonneg_right (abs_b32Val_le_largest v) (by positivity)
  rw [abs_val_mul_pow, num_val, div_le_iff₀ hden] at hle
  have hunits : fixedUnits num v p ≤ b32Largest * 10 ^ p :=
    roundHalfEven_le_of_le (b32Val v).den_pos (by exact_mod_cast hle)
  rw [fixedValue_eq_div, div_le_iff₀ (by positivity)]
  exact_mod_cast hunits

theorem fixedValue_nonneg (v : Scalar) (p : Nat) : 0 ≤ fixedValue num v p := by
  rw [fixedValue_eq_div]
  positivity

/-- Every printed value is read as one of its sign, whatever the rounding of `ofDec` (rules R136 and R152). -/
theorem ofDec_fixedValue (v : Scalar) (p : Nat) :
    ∃ code, num.ofDec (num.neg v) (fixedValue num v p) = some (.fin (b32Neg v) code) := by
  obtain ⟨hsome, hnotNone, -⟩ := b32DecRound_neighbour (Config.freeDecUp (b32Neg v) (fixedValue num v p)) (b32Neg v)
    (fixedValue_nonneg v p)
  obtain ⟨w, hw⟩ := Option.ne_none_iff_exists'.mp
    (hnotNone ((fixedValue_le_largest v p).trans_eq b32Val_largest.symm))
  obtain ⟨code, rfl, -⟩ := hsome w hw
  exact ⟨code, hw⟩

/-- Values of one sign are as far apart as their magnitudes. -/
theorem abs_b32Val_sub_of_sign (neg : Bool) (c d : Fin 0x7F800000) :
    |b32Val (.fin neg c) - b32Val (.fin neg d)| = |abs (b32Val (.fin neg c)) - abs (b32Val (.fin neg d))| := by
  have hpos : ∀ c, 0 ≤ b32Val (.fin false c) := fun c => by
    rw [b32Val_fin_rat]
    exact div_nonneg (Int.cast_nonneg (Int.natCast_nonneg _)) (by positivity)
  have hneg : ∀ c, b32Val (.fin true c) = -b32Val (.fin false c) := fun c => b32Val_negate (.fin false c)
  cases neg with
  | false => rw [abs_of_nonneg (hpos c), abs_of_nonneg (hpos d)]
  | true =>
    rw [hneg, hneg, abs_neg, abs_neg, abs_of_nonneg (hpos c), abs_of_nonneg (hpos d), ← neg_sub', abs_neg]

/-- A finite value printed and read back differs by the two roundings at most (rule R154). -/
theorem readBack_near {v w : Scalar} {p : Nat} (hv : num.finite v = true)
    (hw : num.ofDec (num.neg v) (fixedValue num v p) = some w) :
    |num.val w - num.val v| ≤ 1 / 2 / 10 ^ p + |abs (num.val w) - fixedValue num v p| := by
  obtain ⟨code, hcode⟩ := ofDec_fixedValue v p
  obtain rfl : Scalar.fin (b32Neg v) code = w := Option.some.inj (hcode.symm.trans hw)
  obtain ⟨neg, c, rfl⟩ := (b32Finite_iff v).mp hv
  have hnear := fixedValue_near num (.fin neg c) p
  have hsign := abs_b32Val_sub_of_sign neg code c
  have htriangle := abs_sub_le |b32Val (.fin neg code)| (fixedValue num (.fin neg c) p) |b32Val (.fin neg c)|
  simp only [num_val, b32Neg] at hnear ⊢
  linarith

/-! ### The round trip of the machine -/

theorem State.holdsFrameOver.holds {t s : State} {frame : Bytes} (h : t.holdsFrameOver s frame)
    (hlen : frame.length ≤ Config.bufCap) : t.holds frame := by
  obtain ⟨hcount, hbytes, -, -⟩ := h
  exact ⟨hcount, hlen, hbytes⟩

/-- The two kinds of ENC are the encodings of the two entries of the table (rule R132). -/
theorem exec_enc {i : Instr} {e : FrameFormat}
    (h : (i = .encL1 ∧ e = Config.formatL1) ∨ (i = .encL2 ∧ e = Config.formatL2)) (s : State) :
    e ∈ Config.fmtTable ∧ exec i s = s.encodeKind e := by
  obtain ⟨rfl, rfl⟩ | ⟨rfl, rfl⟩ := h
  · exact ⟨by decide, rfl⟩
  · exact ⟨by decide, rfl⟩

/-- Settles O46: the frame stored is the encoding, its pieces parse, and a success writes what they denote. -/
theorem encThenDecRoundTrip : Obligations.EncThenDecRoundTrip := by
  unfold Obligations.EncThenDecRoundTrip
  intro s i e hkind hready
  obtain ⟨he, hexec⟩ := exec_enc hkind s
  obtain ⟨hlen, t, ht, hframe⟩ := encodeKind_holdsFrameOver he hready
  have hholds := hframe.holds (hlen.trans maxFrame_le_bufCap)
  choose code hcode using ofDec_fixedValue
  have hvalues : ((s.fieldValues e).map fun f => fmtFixed num f.1 f.2).map (parseNum num) =
      ((s.fieldValues e).map fun f => Scalar.fin (b32Neg f.1) (code f.1 f.2)).map some := by
    rw [parse_printed_fields, List.map_map]
    exact List.map_congr_left fun f _ => hcode f.1 f.2
  obtain ⟨-, hdec⟩ := decSuccessWritesResults
  obtain ⟨u, hu, herr, hrkind, hrtms, hrnf, hresults, -⟩ := hdec t _ e _ _ s.tms _ hholds he
    (encodeFrame_checked num he s.tms (s.fieldValues e)) (by rw [List.length_map, State.fieldValues, List.length_map])
    (parseTs_decU s.tms) hvalues
  refine ⟨t, u, hexec.trans ht, hu, herr, hrkind, hrtms, hrnf, fun k hk r hr => ?_⟩
  have hread : num.ofDec (num.neg (s.scalar e.fields[k].1)) (fixedValue num (s.scalar e.fields[k].1) e.fields[k].2)
      = some (u.scalar r) := by
    rw [hresults k (by simpa [State.fieldValues] using hk) r hr, hcode]
    simp [State.fieldValues]
  exact ⟨hread, fixedValue_near num _ _, readBack_near (hready.2 _ (List.getElem_mem hk)) hread⟩

end Sys2Proof.Machine
end

section
/-! What DEC reports: the markers, the digest, the tag and the count, the parsing (rules R142 to R152 and R210); and
the refusal of ENC at a source that is not finite (rule R139). -/

namespace Sys2Proof.Machine

/-! ### The writes of DEC -/

/-- A DEC that finds an error writes its code to ERR (rules R210 and R212). -/
theorem exec_dec_error {s : State} {bytes : Bytes} (h : s.holds bytes) {e : FrameError}
    (hparse : parseFrame num Config.fmtTable bytes = .error e) : exec .dec s = .next { s with err := e.code } := by
  rw [exec_dec_of_holds h, hparse]
  rfl

theorem FrameError.code_ne_zero (e : FrameError) : e.code ≠ 0 := by
  cases e <;> decide

/-- Settles O37: a success writes the code 0, an error its own. -/
theorem decFailureWritesErrAlone : Obligations.DecFailureWritesErrAlone := by
  unfold Obligations.DecFailureWritesErrAlone
  intro s bytes h
  refine ⟨_, exec_dec_of_holds h, ?_⟩
  cases parseFrame num Config.fmtTable bytes with
  | ok p => exact ⟨Nat.zero_le _, fun hne => absurd rfl hne⟩
  | error e => exact ⟨e.code_le, fun _ => rfl⟩

/-! ### Markers -/

/-- The `$` or the `*` is absent, or a `*` lies before every `$` (rule R144). -/
def markersMissing (bytes : Bytes) : Prop :=
  chDollar ∉ bytes ∨ chStar ∉ bytes ∨ ∃ before after, bytes = before ++ chStar :: after ∧ chDollar ∉ before

/-- Markers that are not missing frame a payload (rule R144). -/
theorem framedAs_of_markers {bytes : Bytes} (h : ¬markersMissing bytes) :
    ∃ payload dfield, framedAs bytes payload dfield := by
  unfold markersMissing at h
  push Not at h
  obtain ⟨hdollar, hstar, horder⟩ := h
  obtain ⟨before, after, rfl, hbefore⟩ := List.eq_append_cons_of_mem hdollar
  have hnotStar : chStar ∉ before := fun hmem => by
    obtain ⟨first, last, rfl⟩ := List.append_of_mem hmem
    exact hbefore (List.mem_append_left _ (horder first (last ++ chDollar :: after) (by simp)))
  have hafter : chStar ∈ after := by
    rcases List.mem_append.mp hstar with hmem | hmem
    · exact absurd hmem hnotStar
    · exact (List.mem_cons.mp hmem).resolve_left (by decide)
  obtain ⟨payload, dfield, rfl, hpayload⟩ := List.eq_append_cons_of_mem hafter
  exact ⟨payload, dfield, before, by simp, hbefore, hnotStar, hpayload⟩

/-- No markers are found where they are missing (rule R144). -/
theorem splitMarkers_of_markersMissing {bytes : Bytes} (h : markersMissing bytes) : splitMarkers bytes = none := by
  unfold splitMarkers
  split
  next i j hi hj =>
    rw [List.findIdx?_eq_some_iff_getElem] at hi hj
    obtain ⟨hilt, hdollar, -⟩ := hi
    obtain ⟨hjlt, hstar, hfirst⟩ := hj
    rw [beq_iff_eq] at hdollar hstar
    rcases h with h | h | ⟨before, after, rfl, hbefore⟩
    · exact absurd (hdollar ▸ List.getElem_mem hilt) h
    · exact absurd (hstar ▸ List.getElem_mem hjlt) h
    · have hmid : (before ++ chStar :: after)[before.length]'(by simp) = chStar := by simp
      have hj : j ≤ before.length := by
        by_contra hlt
        exact hfirst before.length (not_le.mp hlt) (beq_iff_eq.mpr hmid)
      have hi : before.length < i := by
        rcases lt_trichotomy i before.length with hlt | rfl | hgt
        · rw [List.getElem_append_left hlt] at hdollar
          exact absurd (hdollar ▸ List.getElem_mem hlt) hbefore
        · exact absurd (hdollar.symm.trans hmid) (by decide)
        · exact hgt
      exact if_pos (hj.trans_lt hi)
  next => rfl

theorem parseFields_ne_missingMarkers {T : Type} (N : Num T) (e : FrameFormat) (rest : List Bytes) :
    parseFields N e rest ≠ .error .missingMarkers := by
  intro h
  unfold parseFields at h
  split at h
  · cases h
  split at h
  · cases h
  split at h <;> cases h

/-- A payload whose digest has been found right reports no missing marker. -/
theorem parsePayload_ne_missingMarkers {T : Type} (N : Num T) (table : List FrameFormat) (a : Alg) (payload : Bytes) :
    parsePayload N table a payload ≠ .error .missingMarkers := by
  intro h
  unfold parsePayload at h
  split at h
  · cases h
  split at h
  · cases h
  split at h
  · cases h
  split at h
  · cases h
  · exact parseFields_ne_missingMarkers N _ _ h

theorem parseFrame_missingMarkers_iff {T : Type} (N : Num T) (table : List FrameFormat) (bytes : Bytes) :
    parseFrame N table bytes = .error .missingMarkers ↔ markersMissing bytes := by
  constructor
  · intro h
    by_contra hmarkers
    obtain ⟨payload, dfield, hframe⟩ := framedAs_of_markers hmarkers
    rw [parseFrame, splitMarkers_of_framedAs hframe] at h
    dsimp only at h
    split at h
    · cases h
    · exact parsePayload_ne_missingMarkers N table _ payload h
  · intro h
    rw [parseFrame, splitMarkers_of_markersMissing h]

/-- Settles O38: the code 1 is that of missing markers alone. -/
theorem decReportsMissingMarkersExactly : Obligations.DecReportsMissingMarkersExactly := by
  unfold Obligations.DecReportsMissingMarkersExactly
  intro s bytes h
  refine ⟨_, exec_dec_of_holds h, ?_⟩
  refine Iff.trans ?_ (parseFrame_missingMarkers_iff num Config.fmtTable bytes)
  cases parseFrame num Config.fmtTable bytes with
  | ok p => exact ⟨nofun, nofun⟩
  | error e => cases e <;> simp [State.putParse, FrameError.code]

/-! ### The digest -/

/-- The digest field of neither algorithm is rejected (rule R146). -/
theorem checkDigest_eq_none {payload dfield : Bytes} (h : ∀ a, dfield ≠ digestField a payload) :
    checkDigest payload dfield = none := by
  unfold checkDigest
  split
  · rfl
  · exact if_neg (h _)

/-- With its markers in order and a wrong digest field, a sequence is CHECKSUM_INVALID (rule R146). -/
theorem exec_dec_wrongDigest {s : State} {bytes payload dfield : Bytes} (h : s.holds bytes)
    (hframe : framedAs bytes payload dfield) (hwrong : ∀ a, dfield ≠ digestField a payload) :
    exec .dec s = .next { s with err := 2 } := by
  refine exec_dec_error h (e := .checksumInvalid) ?_
  simp only [parseFrame, splitMarkers_of_framedAs hframe, checkDigest_eq_none hwrong]

/-- Settles O39: the two texts are the digest fields of the two algorithms. -/
theorem decRejectsWrongDigest : Obligations.DecRejectsWrongDigest := by
  unfold Obligations.DecRejectsWrongDigest
  intro s bytes payload dfield h hframe hxor hcrc
  refine exec_dec_wrongDigest h hframe fun a => ?_
  cases a with
  | xor8 => exact (digestField_xor8 payload).symm ▸ hxor
  | crc16 => exact hcrc

theorem Alg_width_injective : Function.Injective Alg.width := by
  intro a b
  cases a <;> cases b <;> decide

theorem digestField_length (a : Alg) (payload : Bytes) : (digestField a payload).length = a.width := hexW_length _ _

/-- Settles O44: the tampered field has the length of its own algorithm alone, and differs from that algorithm's. -/
theorem decRejectsTamperedDigest : Obligations.DecRejectsTamperedDigest := by
  unfold Obligations.DecRejectsTamperedDigest
  intro s alg payload k c hstar hk hc h
  refine exec_dec_wrongDigest h ⟨[], rfl, List.not_mem_nil, List.not_mem_nil, hstar⟩ fun a heq => ?_
  have hwidth : alg.width = a.width := by
    have hlen := congrArg List.length heq
    rwa [List.length_set, digestField_length, digestField_length] at hlen
  obtain rfl := Alg_width_injective hwidth
  rw [← heq, List.getElem?_set_self hk] at hc
  exact hc rfl

/-! ### Tag, count and pieces -/

/-- A DEC of a frame with right markers and digest reports what the parse of its payload does. -/
theorem exec_dec_checkedFrame {s : State} {bytes : Bytes} {a : Alg} {tag : Bytes} {rest : List Bytes}
    (h : s.holds bytes) (hframe : checkedFrame bytes a tag rest) {e : FrameError}
    (hparse : parsePayload num Config.fmtTable a (joinComma (tag :: rest)) = .error e) :
    exec .dec s = .next { s with err := e.code } :=
  exec_dec_error h ((parseFrame_of_checkedFrame num _ hframe).trans hparse)

section payload
variable {T : Type} (N : Num T) {table : List FrameFormat} {e : FrameFormat} {a : Alg} {tag : Bytes}
  {rest : List Bytes}

/-- An unknown tag (rule R147). -/
theorem parsePayload_of_unknownTag (hcomma : ∀ p ∈ tag :: rest, chComma ∉ p) (hfind : findFormat table tag = none) :
    parsePayload N table a (joinComma (tag :: rest)) = .error .fieldCountMismatch := by
  simp only [parsePayload, splitOn_joinComma _ _ hcomma, hfind]

/-- A tag under the other algorithm, before the pieces are counted (rule R148). -/
theorem parsePayload_of_otherAlg (hcomma : ∀ p ∈ e.tag :: rest, chComma ∉ p) (hfind : findFormat table e.tag = some e)
    (ha : e.alg ≠ a) : parsePayload N table a (joinComma (e.tag :: rest)) = .error .checksumInvalid := by
  simp only [parsePayload, splitOn_joinComma _ _ hcomma, hfind, ne_eq, ha, not_false_eq_true, if_true]

/-- A number of pieces that is not the kind's (rule R149). -/
theorem parsePayload_of_otherCount (hcomma : ∀ p ∈ e.tag :: rest, chComma ∉ p)
    (hfind : findFormat table e.tag = some e) (hcount : rest.length ≠ 1 + e.fields.length) :
    parsePayload N table e.alg (joinComma (e.tag :: rest)) = .error .fieldCountMismatch := by
  simp only [parsePayload, splitOn_joinComma _ _ hcomma, hfind, ne_eq, not_true_eq_false, if_false, hcount,
    not_false_eq_true, if_true]

end payload

/-- Settles O40: each tag is an entry of the table, of the other algorithm. -/
theorem decRejectsWrongAlgorithm : Obligations.DecRejectsWrongAlgorithm := by
  unfold Obligations.DecRejectsWrongAlgorithm
  intro s bytes rest h
  constructor
  · intro hframe
    exact exec_dec_checkedFrame h hframe
      (parsePayload_of_otherAlg num (e := Config.formatL1) hframe.2 (findFormat_tag _ (by decide)) (by decide))
  · intro hframe
    exact exec_dec_checkedFrame h hframe
      (parsePayload_of_otherAlg num (e := Config.formatL2) hframe.2 (findFormat_tag _ (by decide)) (by decide))

/-- A tag that is none of the two is in no entry of the table (rule R76). -/
theorem findFormat_unknown {tag : Bytes} (h1 : tag ≠ [0x4C, 0x31]) (h2 : tag ≠ [0x4C, 0x32]) :
    findFormat Config.fmtTable tag = none := by
  have htags : ∀ e ∈ Config.fmtTable, e.tag = [0x4C, 0x31] ∨ e.tag = [0x4C, 0x32] := by decide
  refine List.find?_eq_none.mpr fun e he heq => ?_
  obtain rfl := beq_iff_eq.mp heq
  exact (htags e he).elim h1 h2

/-- Settles O41: the tag is in no entry, or the pieces are not as many as its entry has. -/
theorem decRejectsUnknownTagOrCount : Obligations.DecRejectsUnknownTagOrCount := by
  unfold Obligations.DecRejectsUnknownTagOrCount
  rintro s bytes a tag rest h hframe (⟨h1, h2⟩ | ⟨rfl, rfl, hcount⟩ | ⟨rfl, rfl, hcount⟩)
  · exact exec_dec_checkedFrame h hframe (parsePayload_of_unknownTag num hframe.2 (findFormat_unknown h1 h2))
  · exact exec_dec_checkedFrame h hframe
      (parsePayload_of_otherCount num (e := Config.formatL1) hframe.2 (findFormat_tag _ (by decide)) hcount)
  · exact exec_dec_checkedFrame h hframe
      (parsePayload_of_otherCount num (e := Config.formatL2) hframe.2 (findFormat_tag _ (by decide)) hcount)

/-- The fields do not parse where one of them does not (rule R152). -/
theorem parseNums_eq_none {T : Type} {N : Num T} {ps : List Bytes} (h : ∃ p ∈ ps, parseNum N p = none) :
    parseNums N ps = none := by
  obtain ⟨p, hp, hnone⟩ := h
  rw [Option.eq_none_iff_forall_ne_some]
  intro vs hvs
  have hmem : none ∈ vs.map some := parseNums_eq_some.mp hvs ▸ hnone ▸ List.mem_map_of_mem hp
  simp at hmem

/-- A timestamp or a field that does not parse (rules R151 and R152). -/
theorem parseFields_error {T : Type} {N : Num T} (e : FrameFormat) {ts : Bytes} {fields : List Bytes}
    (h : parseTs ts = none ∨ ∃ f ∈ fields, parseNum N f = none) :
    parseFields N e (ts :: fields) = .error .fieldParseError := by
  rw [parseFields]
  split
  next => rfl
  next t hts => simp only [parseNums_eq_none (h.resolve_left (by rw [hts]; nofun))]

/-- Settles O42: the count is right, so the pieces are parsed, and one fails. -/
theorem decRejectsUnparsableField : Obligations.DecRejectsUnparsableField := by
  unfold Obligations.DecRejectsUnparsableField
  intro s bytes e ts fields h he hframe hcount hfail
  refine exec_dec_checkedFrame h hframe (e := .fieldParseError) ?_
  rw [parsePayload_of_count num (findFormat_tag e he) hframe.2 (by rw [List.length_cons, hcount, Nat.add_comm])]
  exact parseFields_error e hfail

/-! ### The refusal of ENC -/

/-- An encoding with its operands written meets its first source that is not finite (rule R139). -/
theorem encodeKind_refused {s : State} {e : FrameFormat} (hwritten : s.writtenAll (encOperands e)) {r : SReg} {p : Nat}
    (hr : (r, p) ∈ e.fields) (hfinite : num.finite (s.scalar r) = false) :
    ∃ r' p', (r', p') ∈ e.fields ∧ num.finite (s.scalar r') = false ∧
      s.encodeKind e = .refused (.nonFiniteField r') := by
  have hsome : s.nonFiniteSource e ≠ none := fun hnone => by
    have hall := nonFiniteSource_eq_none.mp hnone (r, p) hr
    rw [hfinite] at hall
    cases hall
  obtain ⟨r', hr'⟩ := Option.ne_none_iff_exists'.mp hsome
  obtain ⟨⟨p', hmem⟩, hnot⟩ := nonFiniteSource_eq_some hr'
  refine ⟨r', p', hmem, hnot, ?_⟩
  rw [State.encodeKind, requireWritten_eq_next.mpr hwritten, andThen_next, hr']

/-- Settles O36: both kinds of ENC are encodings. -/
theorem encRefusesNonFiniteSource : Obligations.EncRefusesNonFiniteSource := by
  unfold Obligations.EncRefusesNonFiniteSource
  exact fun s r p hfinite => ⟨fun hr hwritten => encodeKind_refused hwritten hr hfinite,
    fun hr hwritten => encodeKind_refused hwritten hr hfinite⟩

end Sys2Proof.Machine
end

section
/-! The attitude estimator: the quaternion without the accelerometer and the magnetometer (rules R176 and R178), the
clamp of the pitch's sine (rule R184), and the pitch at gimbal lock (rule R191). -/

namespace Sys2Proof.Machine

/-! ### The quaternion of an UPDATE -/

/-- UPDATE's quaternion comes from the gyroscope, DT and the quaternion before alone: no magnitude of a vector is in
it, as the correction of step 5 is none (rule R178). -/
theorem putUpdate_updateResult_quat (s : State) :
    (s.putUpdate (updateResult num s.accel s.gyro s.mag (s.scalar .dt) s.quat)).quat =
      normalizeQuat num (integrate num s.quat (quatDerivative num s.quat (gyroRates num s.gyro)) (s.scalar .dt)) := by
  rw [putUpdate_quat, updateResult_quat]

/-- Settles O49: the new quaternion is the same function of the same gyroscope, DT and quaternion. -/
theorem quaternionIgnoresAccelAndMag : Obligations.QuaternionIgnoresAccelAndMag := by
  unfold Obligations.QuaternionIgnoresAccelAndMag
  intro s s' hwritten hwritten' hgyro hdt hquat
  refine ⟨_, _, exec_update_next hwritten, exec_update_next hwritten', ?_⟩
  rw [putUpdate_updateResult_quat, putUpdate_updateResult_quat, hgyro, hdt, hquat]

/-! ### The order of binary32 -/

/-- On finite values `NUM.lt` is the order of the exact values. -/
theorem b32Lt_fin_iff (s t : Bool) (a b : Fin 0x7F800000) :
    b32Lt (.fin s a) (.fin t b) = true ↔ b32Val (.fin s a) < b32Val (.fin t b) := by
  rw [b32Val_fin_rat, b32Val_fin_rat, div_lt_div_iff_of_pos_right (by positivity), Int.cast_lt]
  exact decide_eq_true_iff

theorem b32Val_one : b32Val b32One = 1 := by decide +kernel

theorem b32Val_negate_one : b32Val (b32Negate b32One) = -1 := by rw [b32Val_negate, b32Val_one]

theorem b32Lt_one_fin_iff (neg : Bool) (c : Fin 0x7F800000) :
    b32Lt b32One (.fin neg c) = true ↔ 1 < b32Val (.fin neg c) :=
  b32Val_one ▸ b32Lt_fin_iff _ _ _ _

theorem b32Lt_fin_negate_one_iff (neg : Bool) (c : Fin 0x7F800000) :
    b32Lt (.fin neg c) (b32Negate b32One) = true ↔ b32Val (.fin neg c) < -1 :=
  b32Val_negate_one ▸ b32Lt_fin_iff _ _ _ _

/-- What is below minus one is not above one. -/
theorem not_b32Lt_one_of_lt_negate_one {v : Scalar} (h : b32Lt v (b32Negate b32One) = true) :
    b32Lt b32One v = false := by
  cases v with
  | nan => rfl
  | inf neg =>
    have hneg : neg = true := h
    rw [hneg]
    rfl
  | fin neg c =>
    rw [b32Lt_fin_negate_one_iff] at h
    rw [Bool.eq_false_iff, Ne, b32Lt_one_fin_iff]
    linarith

/-- A number neither above one nor below minus one is finite, of magnitude at most one: each infinity is on one of the
two sides. -/
theorem finite_and_abs_le_one_of_not_lt {v : Scalar} (hnan : v ≠ .nan) (hgt : b32Lt b32One v = false)
    (hlt : b32Lt v (b32Negate b32One) = false) : b32Finite v = true ∧ |b32Val v| ≤ 1 := by
  cases v with
  | nan => exact absurd rfl hnan
  | inf neg =>
    have hpos : (!neg) = false := hgt
    have hneg : neg = false := hlt
    rw [hneg] at hpos
    cases hpos
  | fin neg c =>
    rw [Bool.eq_false_iff, Ne, b32Lt_one_fin_iff, not_lt] at hgt
    rw [Bool.eq_false_iff, Ne, b32Lt_fin_negate_one_iff, not_lt] at hlt
    exact ⟨rfl, abs_le.mpr ⟨hlt, hgt⟩⟩

/-! ### The clamp -/

section
variable {T : Type} (N : Num T) {v : T}

theorem clampUnit_of_gt (h : N.lt N.one v = true) : clampUnit N v = N.one := if_pos h

theorem clampUnit_of_lt (hgt : N.lt N.one v = false) (hlt : N.lt v (N.negate N.one) = true) :
    clampUnit N v = N.negate N.one := by
  rw [clampUnit, if_neg (Bool.eq_false_iff.mp hgt), if_pos hlt]

theorem clampUnit_of_inside (hgt : N.lt N.one v = false) (hlt : N.lt v (N.negate N.one) = false) :
    clampUnit N v = v := by
  rw [clampUnit, if_neg (Bool.eq_false_iff.mp hgt), if_neg (Bool.eq_false_iff.mp hlt)]

end

/-- The clamp of a number is in [-1, 1] (rule R184). -/
theorem clampUnit_inUnitRange {v : Scalar} (hnan : v ≠ .nan) :
    b32Finite (clampUnit num v) = true ∧ |b32Val (clampUnit num v)| ≤ 1 := by
  cases hgt : num.lt num.one v with
  | true =>
    rw [clampUnit_of_gt num hgt, num_one, b32Val_one, abs_one]
    exact ⟨rfl, le_rfl⟩
  | false =>
    cases hlt : num.lt v (num.negate num.one) with
    | true =>
      rw [clampUnit_of_lt num hgt hlt, num_negate, num_one, b32Val_negate_one, abs_neg, abs_one]
      exact ⟨rfl, le_rfl⟩
    | false =>
      rw [clampUnit_of_inside num hgt hlt]
      exact finite_and_abs_le_one_of_not_lt hnan hgt hlt

/-- Settles O53: one clause for each branch of the clamp, and the not-a-number is in neither order. -/
theorem clampBringsIntoUnitRange : Obligations.ClampBringsIntoUnitRange := by
  unfold Obligations.ClampBringsIntoUnitRange
  exact ⟨fun _ hgt => clampUnit_of_gt num hgt,
    fun _ hlt => clampUnit_of_lt num (not_b32Lt_one_of_lt_negate_one hlt) hlt,
    fun _ hgt hlt => clampUnit_of_inside num hgt hlt,
    clampUnit_of_inside num rfl rfl,
    fun _ hnan => clampUnit_inUnitRange hnan⟩

/-! ### Gimbal lock -/

/-- P-ASIN90 (rules R8 and R191): the arcsines of one and of minus one are 90 and -90 degrees, whatever the open values
are. -/
theorem rad2deg_asin_one_and_negate_one : rad2deg num (num.asin num.one) = b32Ninety ∧
    rad2deg num (num.asin (num.negate num.one)) = b32Negate b32Ninety := by
  obtain ⟨hone, hnegOne⟩ := Bool.and_eq_true_iff.mp num_asin90
  exact ⟨of_decide_eq_true hone, of_decide_eq_true hnegOne⟩

/-- EULER completes from every state, and PITCH is the arcsine of the clamped sine, in degrees (rule R182). -/
theorem exec_euler_pitch (s : State) : ∃ t, exec .euler s = .next t ∧
    t.scalar .pitch = rad2deg num (num.asin (clampUnit num (pitchSine num s.quat))) :=
  ⟨s.setAngles (eulerAngles num s.quat), rfl, setAngles_scalar _ _ _⟩

/-- Settles O54: PITCH is the arcsine of one or of minus one, which P-ASIN90 fixes in degrees. -/
theorem gimbalLockPitchIsExact : Obligations.GimbalLockPitchIsExact := by
  unfold Obligations.GimbalLockPitchIsExact
  intro s
  obtain ⟨t, ht, hpitch⟩ := exec_euler_pitch s
  obtain ⟨hone, hnegOne⟩ := rad2deg_asin_one_and_negate_one
  refine ⟨t, ht, fun hclamp => ?_, fun hclamp => ?_⟩
  · rw [hpitch, hclamp, hone]
  · rw [hpitch, hclamp, hnegOne]

end Sys2Proof.Machine
end
